-- ==== Sys2Proof/Word.lean ====
section
/-! DEFINITION. The byte and address types (spec/00_scope.md R6: a byte is 8 bits; R5: the CPU bus has 16 address
bits and the PPU bus 14). -/

namespace Sys2Proof

/-- One byte: a register, a memory cell, an operand byte (R6). -/
abbrev Byte := BitVec 8

/-- A CPU-bus address, and the program counter (R22, R90). -/
abbrev Word := BitVec 16

/-- A PPU-bus address (R90). -/
abbrev PpuAddr := BitVec 14

end Sys2Proof
end

