-- ==== Sys2Proof/Syntax.lean ====
section
/-! DEFINITION. The instruction set's abstract form: one constructor per row of spec/opcode_table.json, 151 rows
(spec/30_encoding.md R140, R141, R170, R171). `b` is the operand byte of format F2, `w` the 16-bit operand of format F3. -/

namespace Sys2Proof

/-- The 151 documented instructions, by the rule that gives each its meaning and its addressing mode. -/
inductive Instr where
  /-- `LDA #b`, A9, R200. -/
  | ldaImm (b : Byte)
  /-- `LDA b`, A5, R200. -/
  | ldaZp (b : Byte)
  /-- `LDA b,X`, B5, R200. -/
  | ldaZpx (b : Byte)
  /-- `LDA w`, AD, R200. -/
  | ldaAbs (w : Word)
  /-- `LDA w,X`, BD, R200. -/
  | ldaAbsx (w : Word)
  /-- `LDA w,Y`, B9, R200. -/
  | ldaAbsy (w : Word)
  /-- `LDA (b,X)`, A1, R200. -/
  | ldaIndx (b : Byte)
  /-- `LDA (b),Y`, B1, R200. -/
  | ldaIndy (b : Byte)
  /-- `LDX #b`, A2, R201. -/
  | ldxImm (b : Byte)
  /-- `LDX b`, A6, R201. -/
  | ldxZp (b : Byte)
  /-- `LDX b,Y`, B6, R201. -/
  | ldxZpy (b : Byte)
  /-- `LDX w`, AE, R201. -/
  | ldxAbs (w : Word)
  /-- `LDX w,Y`, BE, R201. -/
  | ldxAbsy (w : Word)
  /-- `LDY #b`, A0, R202. -/
  | ldyImm (b : Byte)
  /-- `LDY b`, A4, R202. -/
  | ldyZp (b : Byte)
  /-- `LDY b,X`, B4, R202. -/
  | ldyZpx (b : Byte)
  /-- `LDY w`, AC, R202. -/
  | ldyAbs (w : Word)
  /-- `LDY w,X`, BC, R202. -/
  | ldyAbsx (w : Word)
  /-- `STA b`, 85, R203. -/
  | staZp (b : Byte)
  /-- `STA b,X`, 95, R203. -/
  | staZpx (b : Byte)
  /-- `STA w`, 8D, R203. -/
  | staAbs (w : Word)
  /-- `STA w,X`, 9D, R203. -/
  | staAbsx (w : Word)
  /-- `STA w,Y`, 99, R203. -/
  | staAbsy (w : Word)
  /-- `STA (b,X)`, 81, R203. -/
  | staIndx (b : Byte)
  /-- `STA (b),Y`, 91, R203. -/
  | staIndy (b : Byte)
  /-- `STX b`, 86, R204. -/
  | stxZp (b : Byte)
  /-- `STX b,Y`, 96, R204. -/
  | stxZpy (b : Byte)
  /-- `STX w`, 8E, R204. -/
  | stxAbs (w : Word)
  /-- `STY b`, 84, R205. -/
  | styZp (b : Byte)
  /-- `STY b,X`, 94, R205. -/
  | styZpx (b : Byte)
  /-- `STY w`, 8C, R205. -/
  | styAbs (w : Word)
  /-- `TAX`, AA, R206. -/
  | tax
  /-- `TAY`, A8, R207. -/
  | tay
  /-- `TXA`, 8A, R208. -/
  | txa
  /-- `TYA`, 98, R209. -/
  | tya
  /-- `TSX`, BA, R210. -/
  | tsx
  /-- `TXS`, 9A, R211. -/
  | txs
  /-- `ADC #b`, 69, R241. -/
  | adcImm (b : Byte)
  /-- `ADC b`, 65, R241. -/
  | adcZp (b : Byte)
  /-- `ADC b,X`, 75, R241. -/
  | adcZpx (b : Byte)
  /-- `ADC w`, 6D, R241. -/
  | adcAbs (w : Word)
  /-- `ADC w,X`, 7D, R241. -/
  | adcAbsx (w : Word)
  /-- `ADC w,Y`, 79, R241. -/
  | adcAbsy (w : Word)
  /-- `ADC (b,X)`, 61, R241. -/
  | adcIndx (b : Byte)
  /-- `ADC (b),Y`, 71, R241. -/
  | adcIndy (b : Byte)
  /-- `SBC #b`, E9, R243. -/
  | sbcImm (b : Byte)
  /-- `SBC b`, E5, R243. -/
  | sbcZp (b : Byte)
  /-- `SBC b,X`, F5, R243. -/
  | sbcZpx (b : Byte)
  /-- `SBC w`, ED, R243. -/
  | sbcAbs (w : Word)
  /-- `SBC w,X`, FD, R243. -/
  | sbcAbsx (w : Word)
  /-- `SBC w,Y`, F9, R243. -/
  | sbcAbsy (w : Word)
  /-- `SBC (b,X)`, E1, R243. -/
  | sbcIndx (b : Byte)
  /-- `SBC (b),Y`, F1, R243. -/
  | sbcIndy (b : Byte)
  /-- `AND #b`, 29, R244. -/
  | andImm (b : Byte)
  /-- `AND b`, 25, R244. -/
  | andZp (b : Byte)
  /-- `AND b,X`, 35, R244. -/
  | andZpx (b : Byte)
  /-- `AND w`, 2D, R244. -/
  | andAbs (w : Word)
  /-- `AND w,X`, 3D, R244. -/
  | andAbsx (w : Word)
  /-- `AND w,Y`, 39, R244. -/
  | andAbsy (w : Word)
  /-- `AND (b,X)`, 21, R244. -/
  | andIndx (b : Byte)
  /-- `AND (b),Y`, 31, R244. -/
  | andIndy (b : Byte)
  /-- `ORA #b`, 09, R245. -/
  | oraImm (b : Byte)
  /-- `ORA b`, 05, R245. -/
  | oraZp (b : Byte)
  /-- `ORA b,X`, 15, R245. -/
  | oraZpx (b : Byte)
  /-- `ORA w`, 0D, R245. -/
  | oraAbs (w : Word)
  /-- `ORA w,X`, 1D, R245. -/
  | oraAbsx (w : Word)
  /-- `ORA w,Y`, 19, R245. -/
  | oraAbsy (w : Word)
  /-- `ORA (b,X)`, 01, R245. -/
  | oraIndx (b : Byte)
  /-- `ORA (b),Y`, 11, R245. -/
  | oraIndy (b : Byte)
  /-- `EOR #b`, 49, R246. -/
  | eorImm (b : Byte)
  /-- `EOR b`, 45, R246. -/
  | eorZp (b : Byte)
  /-- `EOR b,X`, 55, R246. -/
  | eorZpx (b : Byte)
  /-- `EOR w`, 4D, R246. -/
  | eorAbs (w : Word)
  /-- `EOR w,X`, 5D, R246. -/
  | eorAbsx (w : Word)
  /-- `EOR w,Y`, 59, R246. -/
  | eorAbsy (w : Word)
  /-- `EOR (b,X)`, 41, R246. -/
  | eorIndx (b : Byte)
  /-- `EOR (b),Y`, 51, R246. -/
  | eorIndy (b : Byte)
  /-- `CMP #b`, C9, R247. -/
  | cmpImm (b : Byte)
  /-- `CMP b`, C5, R247. -/
  | cmpZp (b : Byte)
  /-- `CMP b,X`, D5, R247. -/
  | cmpZpx (b : Byte)
  /-- `CMP w`, CD, R247. -/
  | cmpAbs (w : Word)
  /-- `CMP w,X`, DD, R247. -/
  | cmpAbsx (w : Word)
  /-- `CMP w,Y`, D9, R247. -/
  | cmpAbsy (w : Word)
  /-- `CMP (b,X)`, C1, R247. -/
  | cmpIndx (b : Byte)
  /-- `CMP (b),Y`, D1, R247. -/
  | cmpIndy (b : Byte)
  /-- `CPX #b`, E0, R248. -/
  | cpxImm (b : Byte)
  /-- `CPX b`, E4, R248. -/
  | cpxZp (b : Byte)
  /-- `CPX w`, EC, R248. -/
  | cpxAbs (w : Word)
  /-- `CPY #b`, C0, R249. -/
  | cpyImm (b : Byte)
  /-- `CPY b`, C4, R249. -/
  | cpyZp (b : Byte)
  /-- `CPY w`, CC, R249. -/
  | cpyAbs (w : Word)
  /-- `BIT b`, 24, R250. -/
  | bitZp (b : Byte)
  /-- `BIT w`, 2C, R250. -/
  | bitAbs (w : Word)
  /-- `ASL A`, 0A, R280. -/
  | aslAcc
  /-- `ASL b`, 06, R280. -/
  | aslZp (b : Byte)
  /-- `ASL b,X`, 16, R280. -/
  | aslZpx (b : Byte)
  /-- `ASL w`, 0E, R280. -/
  | aslAbs (w : Word)
  /-- `ASL w,X`, 1E, R280. -/
  | aslAbsx (w : Word)
  /-- `LSR A`, 4A, R281. -/
  | lsrAcc
  /-- `LSR b`, 46, R281. -/
  | lsrZp (b : Byte)
  /-- `LSR b,X`, 56, R281. -/
  | lsrZpx (b : Byte)
  /-- `LSR w`, 4E, R281. -/
  | lsrAbs (w : Word)
  /-- `LSR w,X`, 5E, R281. -/
  | lsrAbsx (w : Word)
  /-- `ROL A`, 2A, R282. -/
  | rolAcc
  /-- `ROL b`, 26, R282. -/
  | rolZp (b : Byte)
  /-- `ROL b,X`, 36, R282. -/
  | rolZpx (b : Byte)
  /-- `ROL w`, 2E, R282. -/
  | rolAbs (w : Word)
  /-- `ROL w,X`, 3E, R282. -/
  | rolAbsx (w : Word)
  /-- `ROR A`, 6A, R283. -/
  | rorAcc
  /-- `ROR b`, 66, R283. -/
  | rorZp (b : Byte)
  /-- `ROR b,X`, 76, R283. -/
  | rorZpx (b : Byte)
  /-- `ROR w`, 6E, R283. -/
  | rorAbs (w : Word)
  /-- `ROR w,X`, 7E, R283. -/
  | rorAbsx (w : Word)
  /-- `INC b`, E6, R284. -/
  | incZp (b : Byte)
  /-- `INC b,X`, F6, R284. -/
  | incZpx (b : Byte)
  /-- `INC w`, EE, R284. -/
  | incAbs (w : Word)
  /-- `INC w,X`, FE, R284. -/
  | incAbsx (w : Word)
  /-- `DEC b`, C6, R285. -/
  | decZp (b : Byte)
  /-- `DEC b,X`, D6, R285. -/
  | decZpx (b : Byte)
  /-- `DEC w`, CE, R285. -/
  | decAbs (w : Word)
  /-- `DEC w,X`, DE, R285. -/
  | decAbsx (w : Word)
  /-- `INX`, E8, R286. -/
  | inx
  /-- `INY`, C8, R287. -/
  | iny
  /-- `DEX`, CA, R288. -/
  | dex
  /-- `DEY`, 88, R289. -/
  | dey
  /-- `JMP w`, 4C, R310. -/
  | jmpAbs (w : Word)
  /-- `JMP (w)`, 6C, R310. -/
  | jmpInd (w : Word)
  /-- `JSR w`, 20, R311. -/
  | jsr (w : Word)
  /-- `RTS`, 60, R312. -/
  | rts
  /-- `BCC *+2+b`, 90, R314. -/
  | bcc (b : Byte)
  /-- `BCS *+2+b`, B0, R315. -/
  | bcs (b : Byte)
  /-- `BEQ *+2+b`, F0, R316. -/
  | beq (b : Byte)
  /-- `BNE *+2+b`, D0, R317. -/
  | bne (b : Byte)
  /-- `BMI *+2+b`, 30, R318. -/
  | bmi (b : Byte)
  /-- `BPL *+2+b`, 10, R319. -/
  | bpl (b : Byte)
  /-- `BVC *+2+b`, 50, R320. -/
  | bvc (b : Byte)
  /-- `BVS *+2+b`, 70, R321. -/
  | bvs (b : Byte)
  /-- `BRK`, 00, R322. -/
  | brk
  /-- `RTI`, 40, R323. -/
  | rti
  /-- `CLC`, 18, R350. -/
  | clc
  /-- `SEC`, 38, R351. -/
  | sec
  /-- `CLI`, 58, R352. -/
  | cli
  /-- `SEI`, 78, R353. -/
  | sei
  /-- `CLD`, D8, R354. -/
  | cld
  /-- `SED`, F8, R355. -/
  | sed
  /-- `CLV`, B8, R356. -/
  | clv
  /-- `PHA`, 48, R357. -/
  | pha
  /-- `PHP`, 08, R358. -/
  | php
  /-- `PLA`, 68, R359. -/
  | pla
  /-- `PLP`, 28, R360. -/
  | plp
  /-- `NOP`, EA, R361. -/
  | nop
  deriving DecidableEq, Repr

end Sys2Proof
end

