-- ==== Sys2Proof/Decode.lean ====
section
/-! DEFINITION. The byte-order and sign-extension helpers, the decoder, total on any bytes, and the encoder
(spec/30_encoding.md R140, R141, R159, R170, R176; spec/00_scope.md R6; spec/20_memory.md R106). -/

namespace Sys2Proof

/-- `lo(w)` (R6). -/
def lo (w : Word) : Byte := w.extractLsb' 0 8

/-- `hi(w)` (R6). -/
def hi (w : Word) : Byte := w.extractLsb' 8 8

/-- `high ++ low` (R6, R106). -/
def pair (high low : Byte) : Word := high ++ low

/-- `sext_16(v)` (R6). -/
def sext16 (v : Byte) : Word := v.signExtend 16

/-- What an opcode byte determines: the instruction up to its operand (R140, R141). -/
inductive OpcodeShape where
  /-- Format F1: the instruction itself. -/
  | alone (i : Instr)
  /-- Format F2: an operand byte follows. -/
  | withByte (mk : Byte → Instr)
  /-- Format F3: a 16-bit operand follows, low byte first. -/
  | withWord (mk : Word → Instr)

/-- The opcode map (R170); `none` for the 105 undocumented bytes (R177). -/
def opcodeShape (op : Byte) : Option OpcodeShape :=
  match op.toNat with
  | 0x00 => some (.alone .brk)
  | 0x01 => some (.withByte .oraIndx)
  | 0x05 => some (.withByte .oraZp)
  | 0x06 => some (.withByte .aslZp)
  | 0x08 => some (.alone .php)
  | 0x09 => some (.withByte .oraImm)
  | 0x0A => some (.alone .aslAcc)
  | 0x0D => some (.withWord .oraAbs)
  | 0x0E => some (.withWord .aslAbs)
  | 0x10 => some (.withByte .bpl)
  | 0x11 => some (.withByte .oraIndy)
  | 0x15 => some (.withByte .oraZpx)
  | 0x16 => some (.withByte .aslZpx)
  | 0x18 => some (.alone .clc)
  | 0x19 => some (.withWord .oraAbsy)
  | 0x1D => some (.withWord .oraAbsx)
  | 0x1E => some (.withWord .aslAbsx)
  | 0x20 => some (.withWord .jsr)
  | 0x21 => some (.withByte .andIndx)
  | 0x24 => some (.withByte .bitZp)
  | 0x25 => some (.withByte .andZp)
  | 0x26 => some (.withByte .rolZp)
  | 0x28 => some (.alone .plp)
  | 0x29 => some (.withByte .andImm)
  | 0x2A => some (.alone .rolAcc)
  | 0x2C => some (.withWord .bitAbs)
  | 0x2D => some (.withWord .andAbs)
  | 0x2E => some (.withWord .rolAbs)
  | 0x30 => some (.withByte .bmi)
  | 0x31 => some (.withByte .andIndy)
  | 0x35 => some (.withByte .andZpx)
  | 0x36 => some (.withByte .rolZpx)
  | 0x38 => some (.alone .sec)
  | 0x39 => some (.withWord .andAbsy)
  | 0x3D => some (.withWord .andAbsx)
  | 0x3E => some (.withWord .rolAbsx)
  | 0x40 => some (.alone .rti)
  | 0x41 => some (.withByte .eorIndx)
  | 0x45 => some (.withByte .eorZp)
  | 0x46 => some (.withByte .lsrZp)
  | 0x48 => some (.alone .pha)
  | 0x49 => some (.withByte .eorImm)
  | 0x4A => some (.alone .lsrAcc)
  | 0x4C => some (.withWord .jmpAbs)
  | 0x4D => some (.withWord .eorAbs)
  | 0x4E => some (.withWord .lsrAbs)
  | 0x50 => some (.withByte .bvc)
  | 0x51 => some (.withByte .eorIndy)
  | 0x55 => some (.withByte .eorZpx)
  | 0x56 => some (.withByte .lsrZpx)
  | 0x58 => some (.alone .cli)
  | 0x59 => some (.withWord .eorAbsy)
  | 0x5D => some (.withWord .eorAbsx)
  | 0x5E => some (.withWord .lsrAbsx)
  | 0x60 => some (.alone .rts)
  | 0x61 => some (.withByte .adcIndx)
  | 0x65 => some (.withByte .adcZp)
  | 0x66 => some (.withByte .rorZp)
  | 0x68 => some (.alone .pla)
  | 0x69 => some (.withByte .adcImm)
  | 0x6A => some (.alone .rorAcc)
  | 0x6C => some (.withWord .jmpInd)
  | 0x6D => some (.withWord .adcAbs)
  | 0x6E => some (.withWord .rorAbs)
  | 0x70 => some (.withByte .bvs)
  | 0x71 => some (.withByte .adcIndy)
  | 0x75 => some (.withByte .adcZpx)
  | 0x76 => some (.withByte .rorZpx)
  | 0x78 => some (.alone .sei)
  | 0x79 => some (.withWord .adcAbsy)
  | 0x7D => some (.withWord .adcAbsx)
  | 0x7E => some (.withWord .rorAbsx)
  | 0x81 => some (.withByte .staIndx)
  | 0x84 => some (.withByte .styZp)
  | 0x85 => some (.withByte .staZp)
  | 0x86 => some (.withByte .stxZp)
  | 0x88 => some (.alone .dey)
  | 0x8A => some (.alone .txa)
  | 0x8C => some (.withWord .styAbs)
  | 0x8D => some (.withWord .staAbs)
  | 0x8E => some (.withWord .stxAbs)
  | 0x90 => some (.withByte .bcc)
  | 0x91 => some (.withByte .staIndy)
  | 0x94 => some (.withByte .styZpx)
  | 0x95 => some (.withByte .staZpx)
  | 0x96 => some (.withByte .stxZpy)
  | 0x98 => some (.alone .tya)
  | 0x99 => some (.withWord .staAbsy)
  | 0x9A => some (.alone .txs)
  | 0x9D => some (.withWord .staAbsx)
  | 0xA0 => some (.withByte .ldyImm)
  | 0xA1 => some (.withByte .ldaIndx)
  | 0xA2 => some (.withByte .ldxImm)
  | 0xA4 => some (.withByte .ldyZp)
  | 0xA5 => some (.withByte .ldaZp)
  | 0xA6 => some (.withByte .ldxZp)
  | 0xA8 => some (.alone .tay)
  | 0xA9 => some (.withByte .ldaImm)
  | 0xAA => some (.alone .tax)
  | 0xAC => some (.withWord .ldyAbs)
  | 0xAD => some (.withWord .ldaAbs)
  | 0xAE => some (.withWord .ldxAbs)
  | 0xB0 => some (.withByte .bcs)
  | 0xB1 => some (.withByte .ldaIndy)
  | 0xB4 => some (.withByte .ldyZpx)
  | 0xB5 => some (.withByte .ldaZpx)
  | 0xB6 => some (.withByte .ldxZpy)
  | 0xB8 => some (.alone .clv)
  | 0xB9 => some (.withWord .ldaAbsy)
  | 0xBA => some (.alone .tsx)
  | 0xBC => some (.withWord .ldyAbsx)
  | 0xBD => some (.withWord .ldaAbsx)
  | 0xBE => some (.withWord .ldxAbsy)
  | 0xC0 => some (.withByte .cpyImm)
  | 0xC1 => some (.withByte .cmpIndx)
  | 0xC4 => some (.withByte .cpyZp)
  | 0xC5 => some (.withByte .cmpZp)
  | 0xC6 => some (.withByte .decZp)
  | 0xC8 => some (.alone .iny)
  | 0xC9 => some (.withByte .cmpImm)
  | 0xCA => some (.alone .dex)
  | 0xCC => some (.withWord .cpyAbs)
  | 0xCD => some (.withWord .cmpAbs)
  | 0xCE => some (.withWord .decAbs)
  | 0xD0 => some (.withByte .bne)
  | 0xD1 => some (.withByte .cmpIndy)
  | 0xD5 => some (.withByte .cmpZpx)
  | 0xD6 => some (.withByte .decZpx)
  | 0xD8 => some (.alone .cld)
  | 0xD9 => some (.withWord .cmpAbsy)
  | 0xDD => some (.withWord .cmpAbsx)
  | 0xDE => some (.withWord .decAbsx)
  | 0xE0 => some (.withByte .cpxImm)
  | 0xE1 => some (.withByte .sbcIndx)
  | 0xE4 => some (.withByte .cpxZp)
  | 0xE5 => some (.withByte .sbcZp)
  | 0xE6 => some (.withByte .incZp)
  | 0xE8 => some (.alone .inx)
  | 0xE9 => some (.withByte .sbcImm)
  | 0xEA => some (.alone .nop)
  | 0xEC => some (.withWord .cpxAbs)
  | 0xED => some (.withWord .sbcAbs)
  | 0xEE => some (.withWord .incAbs)
  | 0xF0 => some (.withByte .beq)
  | 0xF1 => some (.withByte .sbcIndy)
  | 0xF5 => some (.withByte .sbcZpx)
  | 0xF6 => some (.withByte .incZpx)
  | 0xF8 => some (.alone .sed)
  | 0xF9 => some (.withWord .sbcAbsy)
  | 0xFD => some (.withWord .sbcAbsx)
  | 0xFE => some (.withWord .incAbsx)
  | _ => none

/-- The first instruction of a byte string and the bytes after it; `none` where the opcode is undocumented or an operand
byte is missing (R140, R141). -/
def decode (code : List Byte) : Option (Instr × List Byte) :=
  match code with
  | [] => none
  | op :: rest =>
    match opcodeShape op with
    | none => none
    | some (.alone i) => some (i, rest)
    | some (.withByte mk) =>
      match rest with
      | b :: rest => some (mk b, rest)
      | _ => none
    | some (.withWord mk) =>
      match rest with
      | b1 :: b2 :: rest => some (mk (pair b2 b1), rest)
      | _ => none

/-- The bytes of an instruction, opcode first (R141, R171). -/
def encode (i : Instr) : List Byte :=
  match i with
  | .ldaImm b => [0xA9, b]
  | .ldaZp b => [0xA5, b]
  | .ldaZpx b => [0xB5, b]
  | .ldaAbs w => [0xAD, lo w, hi w]
  | .ldaAbsx w => [0xBD, lo w, hi w]
  | .ldaAbsy w => [0xB9, lo w, hi w]
  | .ldaIndx b => [0xA1, b]
  | .ldaIndy b => [0xB1, b]
  | .ldxImm b => [0xA2, b]
  | .ldxZp b => [0xA6, b]
  | .ldxZpy b => [0xB6, b]
  | .ldxAbs w => [0xAE, lo w, hi w]
  | .ldxAbsy w => [0xBE, lo w, hi w]
  | .ldyImm b => [0xA0, b]
  | .ldyZp b => [0xA4, b]
  | .ldyZpx b => [0xB4, b]
  | .ldyAbs w => [0xAC, lo w, hi w]
  | .ldyAbsx w => [0xBC, lo w, hi w]
  | .staZp b => [0x85, b]
  | .staZpx b => [0x95, b]
  | .staAbs w => [0x8D, lo w, hi w]
  | .staAbsx w => [0x9D, lo w, hi w]
  | .staAbsy w => [0x99, lo w, hi w]
  | .staIndx b => [0x81, b]
  | .staIndy b => [0x91, b]
  | .stxZp b => [0x86, b]
  | .stxZpy b => [0x96, b]
  | .stxAbs w => [0x8E, lo w, hi w]
  | .styZp b => [0x84, b]
  | .styZpx b => [0x94, b]
  | .styAbs w => [0x8C, lo w, hi w]
  | .tax => [0xAA]
  | .tay => [0xA8]
  | .txa => [0x8A]
  | .tya => [0x98]
  | .tsx => [0xBA]
  | .txs => [0x9A]
  | .adcImm b => [0x69, b]
  | .adcZp b => [0x65, b]
  | .adcZpx b => [0x75, b]
  | .adcAbs w => [0x6D, lo w, hi w]
  | .adcAbsx w => [0x7D, lo w, hi w]
  | .adcAbsy w => [0x79, lo w, hi w]
  | .adcIndx b => [0x61, b]
  | .adcIndy b => [0x71, b]
  | .sbcImm b => [0xE9, b]
  | .sbcZp b => [0xE5, b]
  | .sbcZpx b => [0xF5, b]
  | .sbcAbs w => [0xED, lo w, hi w]
  | .sbcAbsx w => [0xFD, lo w, hi w]
  | .sbcAbsy w => [0xF9, lo w, hi w]
  | .sbcIndx b => [0xE1, b]
  | .sbcIndy b => [0xF1, b]
  | .andImm b => [0x29, b]
  | .andZp b => [0x25, b]
  | .andZpx b => [0x35, b]
  | .andAbs w => [0x2D, lo w, hi w]
  | .andAbsx w => [0x3D, lo w, hi w]
  | .andAbsy w => [0x39, lo w, hi w]
  | .andIndx b => [0x21, b]
  | .andIndy b => [0x31, b]
  | .oraImm b => [0x09, b]
  | .oraZp b => [0x05, b]
  | .oraZpx b => [0x15, b]
  | .oraAbs w => [0x0D, lo w, hi w]
  | .oraAbsx w => [0x1D, lo w, hi w]
  | .oraAbsy w => [0x19, lo w, hi w]
  | .oraIndx b => [0x01, b]
  | .oraIndy b => [0x11, b]
  | .eorImm b => [0x49, b]
  | .eorZp b => [0x45, b]
  | .eorZpx b => [0x55, b]
  | .eorAbs w => [0x4D, lo w, hi w]
  | .eorAbsx w => [0x5D, lo w, hi w]
  | .eorAbsy w => [0x59, lo w, hi w]
  | .eorIndx b => [0x41, b]
  | .eorIndy b => [0x51, b]
  | .cmpImm b => [0xC9, b]
  | .cmpZp b => [0xC5, b]
  | .cmpZpx b => [0xD5, b]
  | .cmpAbs w => [0xCD, lo w, hi w]
  | .cmpAbsx w => [0xDD, lo w, hi w]
  | .cmpAbsy w => [0xD9, lo w, hi w]
  | .cmpIndx b => [0xC1, b]
  | .cmpIndy b => [0xD1, b]
  | .cpxImm b => [0xE0, b]
  | .cpxZp b => [0xE4, b]
  | .cpxAbs w => [0xEC, lo w, hi w]
  | .cpyImm b => [0xC0, b]
  | .cpyZp b => [0xC4, b]
  | .cpyAbs w => [0xCC, lo w, hi w]
  | .bitZp b => [0x24, b]
  | .bitAbs w => [0x2C, lo w, hi w]
  | .aslAcc => [0x0A]
  | .aslZp b => [0x06, b]
  | .aslZpx b => [0x16, b]
  | .aslAbs w => [0x0E, lo w, hi w]
  | .aslAbsx w => [0x1E, lo w, hi w]
  | .lsrAcc => [0x4A]
  | .lsrZp b => [0x46, b]
  | .lsrZpx b => [0x56, b]
  | .lsrAbs w => [0x4E, lo w, hi w]
  | .lsrAbsx w => [0x5E, lo w, hi w]
  | .rolAcc => [0x2A]
  | .rolZp b => [0x26, b]
  | .rolZpx b => [0x36, b]
  | .rolAbs w => [0x2E, lo w, hi w]
  | .rolAbsx w => [0x3E, lo w, hi w]
  | .rorAcc => [0x6A]
  | .rorZp b => [0x66, b]
  | .rorZpx b => [0x76, b]
  | .rorAbs w => [0x6E, lo w, hi w]
  | .rorAbsx w => [0x7E, lo w, hi w]
  | .incZp b => [0xE6, b]
  | .incZpx b => [0xF6, b]
  | .incAbs w => [0xEE, lo w, hi w]
  | .incAbsx w => [0xFE, lo w, hi w]
  | .decZp b => [0xC6, b]
  | .decZpx b => [0xD6, b]
  | .decAbs w => [0xCE, lo w, hi w]
  | .decAbsx w => [0xDE, lo w, hi w]
  | .inx => [0xE8]
  | .iny => [0xC8]
  | .dex => [0xCA]
  | .dey => [0x88]
  | .jmpAbs w => [0x4C, lo w, hi w]
  | .jmpInd w => [0x6C, lo w, hi w]
  | .jsr w => [0x20, lo w, hi w]
  | .rts => [0x60]
  | .bcc b => [0x90, b]
  | .bcs b => [0xB0, b]
  | .beq b => [0xF0, b]
  | .bne b => [0xD0, b]
  | .bmi b => [0x30, b]
  | .bpl b => [0x10, b]
  | .bvc b => [0x50, b]
  | .bvs b => [0x70, b]
  | .brk => [0x00]
  | .rti => [0x40]
  | .clc => [0x18]
  | .sec => [0x38]
  | .cli => [0x58]
  | .sei => [0x78]
  | .cld => [0xD8]
  | .sed => [0xF8]
  | .clv => [0xB8]
  | .pha => [0x48]
  | .php => [0x08]
  | .pla => [0x68]
  | .plp => [0x28]
  | .nop => [0xEA]

/-- The longest instruction, in bytes (R140). -/
def maxLength : Nat := 3

/-- The `n` bytes of a number, byte 0 its least significant. -/
def bytesOfNat : Nat → Nat → List Byte
  | 0, _ => []
  | n + 1, w => BitVec.ofNat 8 w :: bytesOfNat n (w / 256)

/-- The bytes in memory of an instruction whose bits are `w`, `nbits` of them given and the others 0. -/
def bytesOfTableWord (nbits w : Nat) : List Byte := bytesOfNat maxLength (w % 2 ^ nbits)

/-- The instruction the decoder reads from an instruction whose bits are `w`, numbered as the opcode table numbers
them. -/
def decodeTableWord (nbits w : Nat) : Option Instr :=
  match decode (bytesOfTableWord nbits w) with
  | none => none
  | some (i, _) => some i

end Sys2Proof
end

