-- ==== Sys2Proof/Machine/Cycles.lean ====
section
/-! DEFINITION. `CPU_CYCLES` (spec/70_reset_and_hazards.md R771, R772; n12). -/

namespace Sys2Proof.Machine

open Sys2Proof

/-- One more tick on a crossed page. -/
def crossTick (cross : Bool) : Nat := if cross then 1 else 0

/-- A branch: 2, 3 when taken, 4 when taken into another page (R313). -/
def branchTicks (cross taken : Bool) : Nat := if taken then 3 + crossTick cross else 2

/-- `CPU_CYCLES(opcode, cross, taken)`, the default table (R772). -/
def cpuCycles (i : Instr) (cross taken : Bool) : Nat :=
  match i with
  | .ldaImm _ | .ldxImm _ | .ldyImm _ | .tax | .tay | .txa | .tya | .tsx | .txs | .adcImm _ | .sbcImm _ |
    .andImm _ | .oraImm _ | .eorImm _ | .cmpImm _ | .cpxImm _ | .cpyImm _ | .aslAcc | .lsrAcc | .rolAcc | .rorAcc |
    .inx | .iny | .dex | .dey | .clc | .sec | .cli | .sei | .cld | .sed | .clv | .nop =>
    2
  | .bcc _ | .bcs _ | .beq _ | .bne _ | .bmi _ | .bpl _ | .bvc _ | .bvs _ =>
    branchTicks cross taken
  | .ldaZp _ | .ldxZp _ | .ldyZp _ | .staZp _ | .stxZp _ | .styZp _ | .adcZp _ | .sbcZp _ | .andZp _ | .oraZp _ |
    .eorZp _ | .cmpZp _ | .cpxZp _ | .cpyZp _ | .bitZp _ | .jmpAbs _ | .pha | .php =>
    3
  | .ldaZpx _ | .ldaAbs _ | .ldxZpy _ | .ldxAbs _ | .ldyZpx _ | .ldyAbs _ | .staZpx _ | .staAbs _ | .stxZpy _ |
    .stxAbs _ | .styZpx _ | .styAbs _ | .adcZpx _ | .adcAbs _ | .sbcZpx _ | .sbcAbs _ | .andZpx _ | .andAbs _ |
    .oraZpx _ | .oraAbs _ | .eorZpx _ | .eorAbs _ | .cmpZpx _ | .cmpAbs _ | .cpxAbs _ | .cpyAbs _ | .bitAbs _ |
    .pla | .plp =>
    4
  | .ldaAbsx _ | .ldaAbsy _ | .ldxAbsy _ | .ldyAbsx _ | .adcAbsx _ | .adcAbsy _ | .sbcAbsx _ | .sbcAbsy _ |
    .andAbsx _ | .andAbsy _ | .oraAbsx _ | .oraAbsy _ | .eorAbsx _ | .eorAbsy _ | .cmpAbsx _ | .cmpAbsy _ =>
    4 + crossTick cross
  | .staAbsx _ | .staAbsy _ | .aslZp _ | .lsrZp _ | .rolZp _ | .rorZp _ | .incZp _ | .decZp _ | .jmpInd _ =>
    5
  | .ldaIndy _ | .adcIndy _ | .sbcIndy _ | .andIndy _ | .oraIndy _ | .eorIndy _ | .cmpIndy _ =>
    5 + crossTick cross
  | .ldaIndx _ | .staIndx _ | .staIndy _ | .adcIndx _ | .sbcIndx _ | .andIndx _ | .oraIndx _ | .eorIndx _ |
    .cmpIndx _ | .aslZpx _ | .aslAbs _ | .lsrZpx _ | .lsrAbs _ | .rolZpx _ | .rolAbs _ | .rorZpx _ | .rorAbs _ |
    .incZpx _ | .incAbs _ | .decZpx _ | .decAbs _ | .jsr _ | .rts | .rti =>
    6
  | .aslAbsx _ | .lsrAbsx _ | .rolAbsx _ | .rorAbsx _ | .incAbsx _ | .decAbsx _ | .brk =>
    7

end Sys2Proof.Machine
end

