-- ==== Sys2Proof/Machine/State.lean ====
section
/-! DEFINITION. The machine's state (spec/10_state.md R20 to R44) as plain data, the reasons a run can stop, and the state
after reset (R46). -/

namespace Sys2Proof.Machine

open Sys2Proof

/-- A byte storage: (index, byte) cells, indexes strictly rising, no cell holding 0x00, which is what an unlisted
index reads as (n25). -/
abbrev Mem := List Host.Cell

/-- The six status flags; bits 5 and 4 of P are not state (R23). -/
structure Status where
  n : Bool
  v : Bool
  d : Bool
  i : Bool
  z : Bool
  c : Bool
  deriving DecidableEq, Repr

/-- CPU registers and glue (R20 to R27). -/
structure Cpu where
  /-- Accumulator (R20). -/
  a : Byte
  /-- Index register X (R20). -/
  x : Byte
  /-- Index register Y (R20). -/
  y : Byte
  /-- Stack pointer: the next free slot is 0x0100 + s (R21). -/
  s : Byte
  /-- Program counter (R22). -/
  pc : Word
  /-- Status flags (R23). -/
  p : Status
  /-- CPU ticks still owed for the instruction or interrupt sequence already performed (R25). -/
  pending : Nat
  /-- An NMI request not yet taken (R26). -/
  nmiPending : Bool
  /-- The IRQ level; no rule sets it (R26, R706). -/
  irqPending : Bool
  /-- CPU ticks still owed for a sprite DMA (R27). -/
  halt : Nat
  deriving DecidableEq, Repr

/-- The host-call bridge's three phases (R32). -/
inductive HostPhase where
  /-- The next port write is a call id (R447). -/
  | idle
  /-- The next port write is an argument (R448). -/
  | collecting
  /-- A callback is running; port writes are ignored (R449). -/
  | inCall
  deriving DecidableEq, Repr

/-- The host-call bridge (R32). -/
structure HostCall where
  phase : HostPhase
  id : Byte
  args : Vector Byte 4
  /-- Argument bytes accumulated so far, 0 to 4 (`hc.have`). -/
  got : Nat
  ret : Byte
  deriving DecidableEq, Repr

/-- Cartridge storage (R33, R480): program storage of `prgBanks` 16 KB banks, never written, and graphics storage. -/
structure Cartridge where
  prgBanks : Nat
  prg : Mem
  chrSize : Nat
  chr : Mem
  deriving DecidableEq, Repr

/-- Mapper registers (R34). -/
structure Mapper where
  sr : BitVec 5
  /-- Data writes counted so far, 0 to 4. -/
  wc : Nat
  ctrl : BitVec 5
  prgFirst : BitVec 5
  /-- 5 bits, but for `PRG_BANKS - 1` of a cartridge of more than 32 banks (R34, R46, R493; n18). -/
  prgSecond : Nat
  prgMerged : BitVec 4
  chrFirst : BitVec 5
  chrSecond : BitVec 5
  chrMerged : BitVec 4
  deriving DecidableEq, Repr

/-- PPU registers, memories and timing state (R35 to R38). -/
structure Ppu where
  ctrl : Byte
  mask : Byte
  status : Byte
  oamaddr : Byte
  hscroll : Byte
  vscroll : Byte
  addr : Word
  /-- The write toggle; false: the next scroll or address write is a first write (R36). -/
  w : Bool
  /-- The two nametables: byte `k` of table `t` at index `1024 * t + k` (R37). -/
  nt : Mem
  oam : Mem
  pal : Mem
  dot : Nat
  scanline : Nat
  frame : Nat
  displayScroll : Byte
  deriving DecidableEq, Repr

/-- One pulse channel (R40). -/
structure Pulse where
  reg : Vector Byte 4
  duty : BitVec 2
  loop : Bool
  constVol : Bool
  vol : BitVec 4
  timer : BitVec 11
  length : BitVec 8
  env : BitVec 4
  envDiv : Nat
  phase : Rat
  deriving DecidableEq, Repr

/-- The triangle channel (R41). -/
structure Triangle where
  reg : Vector Byte 4
  control : Bool
  reloadValue : BitVec 7
  timer : BitVec 11
  length : BitVec 8
  linear : BitVec 7
  reload : Bool
  phase : Rat
  deriving DecidableEq, Repr

/-- The noise channel (R42). -/
structure Noise where
  reg : Vector Byte 4
  loop : Bool
  constVol : Bool
  vol : BitVec 4
  mode : Bool
  periodIndex : BitVec 4
  length : BitVec 8
  env : BitVec 4
  envDiv : Nat
  lfsr : BitVec 15
  phase : Rat
  deriving DecidableEq, Repr

/-- The frame sequencer's rate accumulator and cascade dividers (R44, R603). -/
structure FrameSeq where
  acc : Rat
  n120 : Bool
  n60 : Bool
  deriving DecidableEq, Repr

/-- The output filter's two state values (R44, R661). -/
structure FilterState where
  s1 : Rat
  s2 : Rat
  deriving DecidableEq, Repr

/-- The APU (R40 to R44); `dmc` is the delta-modulation channel's four stored bytes (R43). -/
structure Apu where
  p1 : Pulse
  p2 : Pulse
  tri : Triangle
  noi : Noise
  dmc : Vector Byte 4
  enable : BitVec 5
  fs : FrameSeq
  filt : FilterState
  deriving DecidableEq, Repr

/-- The whole machine. -/
structure State where
  cpu : Cpu
  /-- Dot-steps since the last CPU tick, 0 to 2 (R28). -/
  cpuDiv : Nat
  /-- Work RAM, indexes 0 to 2047 (R30). -/
  ram : Mem
  /-- The controller's shift register (R31). -/
  ctrlShift : Byte
  hc : HostCall
  cart : Cartridge
  mp : Mapper
  ppu : Ppu
  apu : Apu
  /-- The model's own: how many free values have been drawn (n3). -/
  draws : Nat
  deriving DecidableEq, Repr

/-- Why the host's construction or restore can fail. No step of the machine faults: the hardware has no synchronous
exception (R700). -/
inductive Fault where
  /-- Raised by `machineNew` for a mapper identifier other than the supported one (R481, U14). Safe: there is no
  machine. -/
  | unsupportedMapper
  /-- Raised by `restore` for a snapshot older than the minimum version (R765, U15). Safe: nothing is restored. -/
  | snapshotTooOld
  deriving DecidableEq, Repr

/-- What the model gives no meaning. -/
inductive Refusal where
  /-- An instruction the model has no meaning for; no arm raises it. Safe. -/
  | notModelled (mnemonic : String)
  /-- Raised by `executeOne` when the opcode byte is one of the 105 undocumented ones (R176, R177). Safe: nothing can
  be proved of a run that reaches one. -/
  | illegalOpcode (op : Byte)
  /-- Raised by `machineNew` for cartridge buffers that the excluded loader would not hand over (R480). Safe. -/
  | invalidCartridge
  /-- Raised by `progress` for a sample rate that is not positive or a channel count of 0 (R641, U28; n20). Safe. -/
  | invalidPull
  deriving DecidableEq, Repr

/-- A pulse channel after reset (R46). -/
def Pulse.reset : Pulse :=
  { reg := #v[0, 0, 0, 0], duty := 0, loop := false, constVol := false, vol := 0, timer := 0, length := 0, env := 0,
    envDiv := 0, phase := 0 }

/-- The triangle channel after reset (R46). -/
def Triangle.reset : Triangle :=
  { reg := #v[0, 0, 0, 0], control := false, reloadValue := 0, timer := 0, length := 0, linear := 0, reload := false,
    phase := 0 }

/-- The noise channel after reset: every field 0 except `lfsr = 1` (R46). -/
def Noise.reset : Noise :=
  { reg := #v[0, 0, 0, 0], loop := false, constVol := false, vol := 0, mode := false, periodIndex := 0, length := 0,
    env := 0, envDiv := 0, lfsr := 1, phase := 0 }

/-- The APU after reset (R46). -/
def Apu.reset : Apu :=
  { p1 := Pulse.reset, p2 := Pulse.reset, tri := Triangle.reset, noi := Noise.reset, dmc := #v[0, 0, 0, 0], enable := 0,
    fs := { acc := 0, n120 := false, n60 := false }, filt := { s1 := 0, s2 := 0 } }

/-- The PPU after reset (R46). -/
def Ppu.reset : Ppu :=
  { ctrl := 0, mask := 0, status := 0, oamaddr := 0, hscroll := 0, vscroll := 0, addr := 0, w := false, nt := [],
    oam := [], pal := [], dot := 0, scanline := 0, frame := 0, displayScroll := 0 }

/-- The host-call bridge after reset (R46). -/
def HostCall.reset : HostCall :=
  { phase := .idle, id := 0, args := #v[0, 0, 0, 0], got := 0, ret := 0 }

/-- The mapper after reset with `banks` program banks (R46, R487). -/
def Mapper.reset (banks : Nat) : Mapper :=
  { sr := 0b10000, wc := 0, ctrl := 0x0C, prgFirst := 0, prgSecond := banks - 1, prgMerged := 0,
    chrFirst := 0, chrSecond := 0, chrMerged := 0 }

/-- The CPU after reset, its program counter read from the reset vector (R46, R402). -/
def Cpu.reset (pc : Word) : Cpu :=
  { a := 0, x := 0, y := 0, s := 0xFD, pc := pc,
    p := { n := false, v := false, d := false, i := true, z := false, c := false },
    pending := 0, nmiPending := false, irqPending := false, halt := 0 }

/-- The machine right after construction and reset (R46, R750, R751) with the default work RAM and a cartridge of one
program bank that lists no byte, so that the reset vector reads 0x0000 (n1, n2). -/
def State.reset : State :=
  { cpu := Cpu.reset 0x0000
    cpuDiv := 0
    ram := []
    ctrlShift := 0
    hc := HostCall.reset
    cart := { prgBanks := 1, prg := [], chrSize := 16384, chr := [] }
    mp := Mapper.reset 1
    ppu := Ppu.reset
    apu := Apu.reset
    draws := 0 }

end Sys2Proof.Machine
end

