-- ==== Sys2Proof/Machine/Memory.lean ====
section
/-! DEFINITION. Byte storages (n25): what an unlisted index reads as, reading and writing one byte, and the canonical
form. -/

namespace Sys2Proof.Machine

open Sys2Proof

/-- What an index that is not listed reads as (R46: every memory is zero after reset; D12, D21, D40; n1, n2). -/
def Mem.unlisted : Byte := 0x00

/-- The byte at index `a`. -/
def Mem.read (m : Mem) (a : Nat) : Byte :=
  match m with
  | [] => Mem.unlisted
  | (k, v) :: rest => if k = a then v else Mem.read rest a

/-- The cell of `a`, unless it would hold what an unlisted index reads as, in front of `rest`. -/
def Mem.putCell (a : Nat) (v : Byte) (rest : Mem) : Mem :=
  if v = Mem.unlisted then rest else (a, v) :: rest

/-- Byte `v` stored at index `a`. -/
def Mem.write (m : Mem) (a : Nat) (v : Byte) : Mem :=
  match m with
  | [] => Mem.putCell a v []
  | (k, w) :: rest =>
    if a < k then Mem.putCell a v ((k, w) :: rest)
    else if a = k then Mem.putCell a v rest
    else (k, w) :: Mem.write rest a v

/-- The storage whose bytes `lo` to `lo + n - 1` are `f lo` to `f (lo + n - 1)`, and no other is listed. -/
def Mem.tabulate (f : Nat → Byte) : Nat → Nat → Mem
  | _, 0 => []
  | lo, n + 1 => Mem.putCell lo (f lo) (Mem.tabulate f (lo + 1) n)

/-- The canonical form from index `lo` on: indexes at least `lo` and strictly rising, no cell holding the unlisted
value. -/
def Mem.wfFrom (lo : Nat) (m : Mem) : Bool :=
  match m with
  | [] => true
  | (k, v) :: rest => decide (lo ≤ k) && decide (v ≠ Mem.unlisted) && Mem.wfFrom (k + 1) rest

/-- The canonical form. -/
def Mem.wf (m : Mem) : Bool := Mem.wfFrom 0 m

/-- Every listed index is below `size`. -/
def Mem.below (size : Nat) (m : Mem) : Bool := m.all (fun cell => decide (cell.1 < size))

/-- All six byte storages of the machine are in canonical form. -/
def Memory.wf (s : State) : Bool :=
  Mem.wf s.ram && Mem.wf s.cart.prg && Mem.wf s.cart.chr && Mem.wf s.ppu.nt && Mem.wf s.ppu.oam && Mem.wf s.ppu.pal

/-- The bytes 0 to `n - 1`, in order. -/
def Mem.bytes (m : Mem) (n : Nat) : List Byte := (List.range n).map (Mem.read m)

/-- `f` applied `n` times. -/
def times {α : Type} (f : α → α) : Nat → α → α
  | 0, x => x
  | n + 1, x => times f n (f x)

end Sys2Proof.Machine
end

