-- ==== Sys2Proof/Config.lean ====
section
/-! DEFINITION. What the spec leaves OPEN, each an opaque constant of which no proof can see a value
(spec/00_scope.md R5; spec/92_eei_decisions.md section 7). Where the spec bounds a parameter, its type carries the bound. Parameters whose
value the spec decides are in Machine/Params.lean. -/

namespace Sys2Proof

/-- `HOSTCALL_PORT - 0x4020`: the port is one address in 0x4020 to 0x7FFF (R5, D15; n7). -/
opaque Config.hostcallOffset : Fin 0x3FE0

/-- The declared argument count of each registered call id, 0 to 4; `none` for an id that is not registered
(R5, R451, D16; n8). -/
opaque Config.hostArity : Byte → Option (Fin 5)

/-- The byte a callback returns: call id, four arguments, and the work RAM it sees as a list of 2048 bytes
(R452, D43; n8). -/
opaque Config.hostReturn : Byte → Byte → Byte → Byte → Byte → List Byte → Byte

/-- The byte that work-RAM index `k` holds after a callback: call id, four arguments, the work RAM it saw, `k`
(R452, D43; n8). -/
opaque Config.hostRam : Byte → Byte → Byte → Byte → Byte → List Byte → Nat → Byte

/-- FREE VALUE. The button state sampled by the strobe that makes draw number `k`: right, left, down, up, start,
select, B, A from bit 7 to bit 0 (R440, D17, U12; n5). -/
opaque Config.buttons : Nat → Byte

/-- FREE VALUE. Whether the sprite DMA that makes draw number `k` stalls the CPU for 514 ticks rather than 513
(R406, D30, U4; n4). -/
opaque Config.dmaLong : Nat → Bool

/-- FREE VALUE. The sample rates of the sample steps the audio producer performs in the audio turn that makes draw
number `k`, in order; none, or any number of them (R120, R602, D39, U17; n6). -/
opaque Config.audioSteps : Nat → List Rat

/-- `SPR0_HIT_SCANLINE`, 0 to 239 (R543, D29; n9). -/
opaque Config.spr0Scanline : Fin 240

/-- `SPR0_HIT_DOT - 1`: the dot is 1 to 256 (R543, D29; n9). -/
opaque Config.spr0DotOffset : Fin 256

/-- `ApuFilter` away from the zero state with zero input: the two state values, the input, the rate; the output and
the two next state values (R661, D38; n13). -/
opaque Config.apuFilter : Rat → Rat → Rat → Rat → Rat × Rat × Rat

end Sys2Proof
end

