-- ==== Sys2Proof/Machine/Params.lean ====
section
/-! DEFINITION. The implementation parameters whose value the spec gives or decides (spec/00_scope.md R5), and the open
ones of Config in the form the rules use. -/

namespace Sys2Proof.Machine

open Sys2Proof

/-- `CPU_CLOCK_HZ` (R5). -/
def cpuClockHz : Rat := 1789773

/-- `BUS_DEFAULT`: the value of a read no peripheral handles (R5, R94, D13; n10). -/
def busDefault : Byte := 0x00

/-- `MAPPER_CTRL_RESET` (R5, R484, D18). -/
def mapperCtrlReset : BitVec 5 := 0x0C

/-- The one accepted `MAPPER_ID` (R5, R480, D20). -/
def mapperId : Nat := 1

/-- `CPU_DECIMAL` (R5, R242, D3; n11). -/
def cpuDecimal : Bool := false

/-- `PALETTE_ALIAS` (R5, R105, D26; n29). -/
def paletteAlias : Bool := true

/-- `DMC_MIX_LEVEL` (R5, R663, D38). -/
def dmcMixLevel : Nat := 0

/-- `DMA_PORT` (R5, R405). -/
def dmaPort : Word := 0x4014

/-- `CTRL_PORT` (R5, R440). -/
def ctrlPort : Word := 0x4016

/-- `HOSTCALL_PORT`, between 0x4020 and 0x7FFF (R5, D15; n7). -/
def hostcallPort : Word := BitVec.ofNat 16 (0x4020 + Config.hostcallOffset.val)

/-- Is `a` the host-call port? The range is tested first, so that an address outside it is decided without the
port's value. -/
def isHostcallPort (a : Word) : Bool :=
  decide (0x4020 ≤ a.toNat) && decide (a.toNat ≤ 0x7FFF) && decide (a = hostcallPort)

/-- `SPR0_HIT_SCANLINE` (R5, R543; n9). -/
def spr0HitScanline : Nat := Config.spr0Scanline.val

/-- `SPR0_HIT_DOT` (R5, R543; n9). -/
def spr0HitDot : Nat := 1 + Config.spr0DotOffset.val

/-- `USER_VOLUME`, a host input: a factor between 0 and 1, no architectural state (R5, R662; n14). -/
abbrev UserVolume := { v : Rat // 0 ≤ v ∧ v ≤ 1 }

/-- The volume at which a sample is the filter's output (R662). -/
def fullVolume : UserVolume := ⟨1, by decide⟩

/-- The NMI vector (R99). -/
def nmiVector : Word := 0xFFFA

/-- The reset vector (R99). -/
def resetVector : Word := 0xFFFC

/-- The IRQ and BRK vector (R99). -/
def irqVector : Word := 0xFFFE

/-- Ticks of an interrupt entry (R704, R773). -/
def interruptTicks : Nat := 7

end Sys2Proof.Machine
end

