-- ==== Sys2Proof/Machine/Apu.lean ====
section
/-! DEFINITION. APU tables and register accesses (spec/49_apu.md R600 to R636). The audio producer's step is in
Machine/Audio.lean, the bus side in Machine/Bus.lean. -/

namespace Sys2Proof.Machine

open Sys2Proof

/-- `LEN_TABLE` (R606). -/
def lenTable : List (BitVec 8) :=
  [10, 254, 20, 2, 40, 4, 80, 6, 160, 8, 60, 10, 14, 12, 26, 14]
    ++ [12, 16, 24, 18, 48, 20, 96, 22, 192, 24, 72, 26, 16, 28, 32, 30]

/-- `NOISE_PERIOD`, CPU cycles per shift (R607). -/
def noisePeriodTable : List Nat := [4, 8, 16, 32, 64, 96, 128, 160, 202, 254, 380, 508, 762, 1016, 2034, 4068]

/-- `DUTY_TABLE`, step 0 first (R608). -/
def dutyTable : List (List Nat) :=
  [[0, 1, 0, 0, 0, 0, 0, 0], [0, 1, 1, 0, 0, 0, 0, 0], [0, 1, 1, 1, 1, 0, 0, 0], [1, 0, 0, 1, 1, 1, 1, 1]]

/-- `TRI_TABLE`, step 0 first (R609). -/
def triTable : List Nat :=
  [15, 14, 13, 12, 11, 10, 9, 8, 7, 6, 5, 4, 3, 2, 1, 0] ++ [0, 1, 2, 3, 4, 5, 6, 7, 8, 9, 10, 11, 12, 13, 14, 15]

/-- The length value a register-3 byte selects: `LEN_TABLE[v[7:3]]` (R617, R621, R625, R628). -/
def lengthLoad (v : Byte) : BitVec 8 := lenTable.getD (v.extractLsb' 3 5).toNat 0

/-- `timer` with its low byte replaced (R616, R620). -/
def timerLow (t : BitVec 11) (v : Byte) : BitVec 11 := (t &&& 0x700#11) ||| v.setWidth 11

/-- `timer` with its high three bits replaced by `v[2:0]` (R617, R621). -/
def timerHigh (t : BitVec 11) (v : Byte) : BitVec 11 :=
  (t &&& 0x0FF#11) ||| ((v.extractLsb' 0 3).setWidth 11 <<< 8)

/-- A channel's four raw bytes with byte `k` stored. -/
def regStore (r : Vector Byte 4) (k : Fin 4) (v : Byte) : Vector Byte 4 := r.set k.val v k.isLt

/-- A write of pulse register `k` (R614 to R617). -/
def pulseWrite (ch : Pulse) (k : Fin 4) (v : Byte) : Pulse :=
  let ch := { ch with reg := regStore ch.reg k v }
  match k.val with
  | 0 =>
    { ch with
      duty := v.extractLsb' 6 2
      loop := v.getLsbD 5
      constVol := v.getLsbD 4
      vol := v.extractLsb' 0 4 }
  | 1 => ch
  | 2 => { ch with timer := timerLow ch.timer v }
  | _ =>
    { ch with
      timer := timerHigh ch.timer v
      length := lengthLoad v
      phase := 0
      env := if ch.constVol then ch.env else 15
      envDiv := if ch.constVol then ch.envDiv else ch.vol.toNat }

/-- A write of triangle register `k` (R618 to R621). -/
def triWrite (ch : Triangle) (k : Fin 4) (v : Byte) : Triangle :=
  let ch := { ch with reg := regStore ch.reg k v }
  match k.val with
  | 0 => { ch with control := v.getLsbD 7, reloadValue := v.extractLsb' 0 7 }
  | 1 => ch
  | 2 => { ch with timer := timerLow ch.timer v }
  | _ => { ch with timer := timerHigh ch.timer v, length := lengthLoad v, reload := true }

/-- A write of noise register `k` (R622 to R625). -/
def noiseWrite (ch : Noise) (k : Fin 4) (v : Byte) : Noise :=
  let ch := { ch with reg := regStore ch.reg k v }
  match k.val with
  | 0 => { ch with loop := v.getLsbD 5, constVol := v.getLsbD 4, vol := v.extractLsb' 0 4 }
  | 1 => ch
  | 2 => { ch with mode := v.getLsbD 7, periodIndex := v.extractLsb' 0 4 }
  | _ =>
    { ch with
      length := lengthLoad v
      env := if ch.constVol then ch.env else 15
      envDiv := if ch.constVol then ch.envDiv else ch.vol.toNat }

/-- The status register write, 0x4015: channel enables; a disabled channel's length becomes 0 (R630). -/
def statusWrite (a : Apu) (v : Byte) : Apu :=
  { a with
    enable := v.extractLsb' 0 5
    p1 := { a.p1 with length := if v.getLsbD 0 then a.p1.length else 0 }
    p2 := { a.p2 with length := if v.getLsbD 1 then a.p2.length else 0 }
    tri := { a.tri with length := if v.getLsbD 2 then a.tri.length else 0 }
    noi := { a.noi with length := if v.getLsbD 3 then a.noi.length else 0 } }

/-- The status register read, 0x4015: one bit per channel whose length is above 0 (R632). -/
def statusRead (a : Apu) : Byte :=
  (if a.p1.length = 0 then 0 else 0x01) ||| (if a.p2.length = 0 then 0 else 0x02)
    ||| (if a.tri.length = 0 then 0 else 0x04) ||| (if a.noi.length = 0 then 0 else 0x08)

/-- The register number inside a block of four. -/
def blockReg (a : Word) : Fin 4 := ⟨a.toNat % 4, Nat.mod_lt _ (by decide)⟩

/-- `Apu.write` (R600); `none` where the address is not the APU's. -/
def apuWrite (a : Word) (v : Byte) (u : Apu) : Option Apu :=
  let n := a.toNat
  if 0x4000 ≤ n ∧ n ≤ 0x4003 then some { u with p1 := pulseWrite u.p1 (blockReg a) v }
  else if 0x4004 ≤ n ∧ n ≤ 0x4007 then some { u with p2 := pulseWrite u.p2 (blockReg a) v }
  else if 0x4008 ≤ n ∧ n ≤ 0x400B then some { u with tri := triWrite u.tri (blockReg a) v }
  else if 0x400C ≤ n ∧ n ≤ 0x400F then some { u with noi := noiseWrite u.noi (blockReg a) v }
  else if 0x4010 ≤ n ∧ n ≤ 0x4013 then some { u with dmc := regStore u.dmc (blockReg a) v }
  else if n = 0x4015 then some (statusWrite u v)
  else if n = 0x4017 then some u
  else none

/-- `Apu.read` (R601): the delta-modulation bytes and the status; `none` elsewhere. -/
def apuRead (a : Word) (u : Apu) : Option Byte :=
  let n := a.toNat
  if 0x4010 ≤ n ∧ n ≤ 0x4013 then some (u.dmc.get (blockReg a))
  else if n = 0x4015 then some (statusRead u)
  else none

end Sys2Proof.Machine
end

