-- ==== Sys2Proof/Machine/Audio.lean ====
section
/-! DEFINITION. The audio producer's sample step: frame sequencer, channel synthesis, mixing, filter, output
(spec/49_apu.md R603 to R613, R640 to R664). Samples are outputs, not state (R45). -/

namespace Sys2Proof.Machine

open Sys2Proof

/-- One envelope's 240 Hz step: the next level and divider (R604). -/
def envelopeStep (vol : BitVec 4) (loop : Bool) (env : BitVec 4) (div : Nat) : BitVec 4 × Nat :=
  if div = 0 then (if env ≠ 0 then env - 1 else if loop then 15 else env, vol.toNat) else (env, div - 1)

/-- A pulse channel's 240 Hz step (R604). -/
def pulseTick240 (ch : Pulse) : Pulse :=
  let e := envelopeStep ch.vol ch.loop ch.env ch.envDiv
  { ch with env := e.1, envDiv := e.2 }

/-- The noise channel's 240 Hz step (R604). -/
def noiseTick240 (ch : Noise) : Noise :=
  let e := envelopeStep ch.vol ch.loop ch.env ch.envDiv
  { ch with env := e.1, envDiv := e.2 }

/-- The triangle's 240 Hz step: its linear counter (R604). -/
def triTick240 (ch : Triangle) : Triangle := { ch with linear := if ch.linear = 0 then 0 else ch.linear - 1 }

/-- `Tick240()` (R604). -/
def tick240 (u : Apu) : Apu :=
  { u with p1 := pulseTick240 u.p1, p2 := pulseTick240 u.p2, noi := noiseTick240 u.noi, tri := triTick240 u.tri }

/-- A length counter's 120 Hz step: down to 0 unless halted (R605). -/
def lengthStep (halted : Bool) (l : BitVec 8) : BitVec 8 := if halted || l == 0 then l else l - 1

/-- The triangle's 120 Hz step: its length, then the linear counter's reload (R605). -/
def triTick120 (ch : Triangle) : Triangle :=
  { ch with
    length := lengthStep ch.control ch.length
    linear := if ch.reload then ch.reloadValue else ch.linear
    reload := if ch.reload && !ch.control then false else ch.reload }

/-- `Tick120()` (R605). -/
def tick120 (u : Apu) : Apu :=
  { u with
    p1 := { u.p1 with length := lengthStep u.p1.loop u.p1.length }
    p2 := { u.p2 with length := lengthStep u.p2.loop u.p2.length }
    noi := { u.noi with length := lengthStep u.noi.loop u.noi.length }
    tri := triTick120 u.tri }

/-- `Tick60()`: a timing slot without action (R605). -/
def tick60 (u : Apu) : Apu := u

/-- One pass of the frame sequencer's loop: a 240 Hz tick and, by the cascade dividers, the 120 Hz and 60 Hz ticks
(R603). -/
def sequencerTick (u : Apu) : Apu :=
  let u := tick240 u
  let u := { u with fs := { u.fs with n120 := !u.fs.n120 } }
  if u.fs.n120 then u
  else
    let u := tick120 u
    let u := { u with fs := { u.fs with n60 := !u.fs.n60 } }
    if u.fs.n60 then u else tick60 u

/-- `FsAdvance(rate)`: the accumulator grows by `240 / rate`, and each whole unit it holds is one pass (R603). -/
def fsAdvance (rate : Rat) (u : Apu) : Apu :=
  let acc := u.fs.acc + 240 / rate
  let passes := acc.floor.toNat
  times sequencerTick passes { u with fs := { u.fs with acc := acc - passes } }

/-- `PulseFreq(timer)`, Hz (R612). -/
def pulseFreq (timer : BitVec 11) : Rat := cpuClockHz / (16 * (timer.toNat + 1))

/-- `TriFreq(timer)`, Hz (R612). -/
def triFreq (timer : BitVec 11) : Rat := cpuClockHz / (32 * (timer.toNat + 1))

/-- `NoiseRate(i)`, shifts per second (R612). -/
def noiseRate (i : BitVec 4) : Rat := cpuClockHz / (noisePeriodTable.getD i.toNat 1 : Nat)

/-- `x` reduced into [0, m) by whole multiples of `m`. -/
def ratMod (x m : Rat) : Rat := x - m * (x / m).floor

/-- `Volume(ch)`: the nibble in constant-volume mode, the envelope otherwise (R650). -/
def volume (constVol : Bool) (vol env : BitVec 4) : Nat := if constVol then vol.toNat else env.toNat

/-- Is a pulse channel silent (R613, R642)? -/
def pulseSilent (en : Bool) (ch : Pulse) : Bool := !en || decide (ch.timer.toNat < 8) || ch.length == 0

/-- `PulseSample(ch, en, rate)`: the sample is taken before the phase advances; a silent channel does not advance
(R642). -/
def pulseSample (ch : Pulse) (en : Bool) (rate : Rat) : Nat × Pulse :=
  if pulseSilent en ch then (0, ch)
  else
    (((dutyTable.getD ch.duty.toNat []).getD (8 * ch.phase).floor.toNat 0) * volume ch.constVol ch.vol ch.env,
      { ch with phase := ratMod (ch.phase + pulseFreq ch.timer / rate) 1 })

/-- Is the triangle's gate open (R644)? -/
def triGate (en : Bool) (ch : Triangle) : Bool := en && ch.length != 0 && ch.linear != 0

/-- `TriSample(rate)`: the level of the current step; the ramp advances only while the gate is open (R644). -/
def triSample (ch : Triangle) (en : Bool) (rate : Rat) : Nat × Triangle :=
  (triTable.getD ch.phase.floor.toNat 0,
    { ch with phase := if triGate en ch then ratMod (ch.phase + 32 * triFreq ch.timer / rate) 32 else ch.phase })

/-- One shift of the noise register: feedback bit 0 xor bit 6 (mode 1) or bit 1 (mode 0), into bit 14 (R646). -/
def lfsrStep (mode : Bool) (l : BitVec 15) : BitVec 15 :=
  let fb := (l.getLsbD 0) ^^ (if mode then l.getLsbD 6 else l.getLsbD 1)
  (l >>> 1) ||| (if fb then 0x4000#15 else 0#15)

/-- `NoiseSample(rate)`: the sample, then as many shifts as whole shift periods have elapsed (R646). -/
def noiseSample (ch : Noise) (en : Bool) (rate : Rat) : Nat × Noise :=
  let out := if en && ch.length != 0 && !ch.lfsr.getLsbD 0 then volume ch.constVol ch.vol ch.env else 0
  let phase := ch.phase + noiseRate ch.periodIndex / rate
  let shifts := phase.floor.toNat
  (out, { ch with phase := phase - shifts, lfsr := times (lfsrStep ch.mode) shifts ch.lfsr })

/-- The pulse group of the mixer (R660). -/
def pulseMix (s1 s2 : Nat) : Rat :=
  if s1 + s2 = 0 then 0 else (9588 / 100) / (8128 / ((s1 + s2 : Nat) : Rat) + 100)

/-- The triangle, noise and delta-modulation group of the mixer (R660). -/
def tndMix (t n d : Nat) : Rat :=
  if t = 0 ∧ n = 0 ∧ d = 0 then 0
  else (15979 / 100) / (1 / ((t : Rat) / 8227 + (n : Rat) / 12241 + (d : Rat) / 22638) + 100)

/-- `ApuMix` (R660). -/
def apuMix (s1 s2 t n d : Nat) : Rat := pulseMix s1 s2 + tndMix t n d

/-- `ApuFilter(state, m, rate)`: a function the spec leaves open but for the zero state with zero input, which gives
zero output and the zero state (R661; n13). -/
def apuFilter (f : FilterState) (m rate : Rat) : Rat × FilterState :=
  if f.s1 = 0 ∧ f.s2 = 0 ∧ m = 0 then (0, f)
  else
    let r := Config.apuFilter f.s1 f.s2 m rate
    (r.1, { s1 := r.2.1, s2 := r.2.2 })

/-- The four digital channel outputs of one sample step, and the APU after it, its filter not yet advanced (R640). -/
def channelSamples (rate : Rat) (u : Apu) : (Nat × Nat × Nat × Nat) × Apu :=
  let u := fsAdvance rate u
  let s1 := pulseSample u.p1 (u.enable.getLsbD 0) rate
  let s2 := pulseSample u.p2 (u.enable.getLsbD 1) rate
  let t := triSample u.tri (u.enable.getLsbD 2) rate
  let n := noiseSample u.noi (u.enable.getLsbD 3) rate
  ((s1.1, s2.1, t.1, n.1), { u with p1 := s1.2, p2 := s2.2, tri := t.2, noi := n.2 })

/-- `SampleStep(rate)` with the user volume (R640, R662): the sample, and the APU after it. -/
def sampleStep (userVolume : UserVolume) (rate : Rat) (u : Apu) : Rat × Apu :=
  let c := channelSamples rate u
  let y := apuFilter c.2.filt (apuMix c.1.1 c.1.2.1 c.1.2.2.1 c.1.2.2.2 dmcMixLevel) rate
  (userVolume.val * y.1, { c.2 with filt := y.2 })

/-- A run of sample steps at the given rates; a rate that is not positive is no legal pull and makes no step
(R641, U28; n20). -/
def runSamples (rates : List Rat) (u : Apu) : Apu :=
  rates.foldl (fun u rate => if 0 < rate then (sampleStep fullVolume rate u).2 else u) u

/-- The audio producer's turn: as many sample steps as it takes, a free value (R120, R602, D39; n6). -/
def audioTurn (s : State) : State :=
  { s with apu := runSamples (Config.audioSteps s.draws) s.apu, draws := s.draws + 1 }

/-- The samples of `count` sample steps, each written `channels` times, and the APU after them (R641, R664). -/
def pullSamples (userVolume : UserVolume) (rate : Rat) (channels : Nat) : Nat → Apu → List Rat × Apu
  | 0, u => ([], u)
  | count + 1, u =>
    let y := sampleStep userVolume rate u
    let rest := pullSamples userVolume rate channels count y.2
    (List.replicate channels y.1 ++ rest.1, rest.2)

/-- `progress(count, rate, channels)`, the audio backend's pull: the interleaved samples and the machine after it; an
input that is not legal is refused (R641, R664, U28). -/
def progress (count : Nat) (userVolume : UserVolume) (rate : Rat) (channels : Nat) (s : State) :
    Except Refusal (List Rat × State) :=
  if 0 < rate ∧ 1 ≤ channels then
    let r := pullSamples userVolume rate channels count s.apu
    .ok (r.1, { s with apu := r.2 })
  else .error .invalidPull

end Sys2Proof.Machine
end

