-- ==== Sys2Proof/Machine/BusContract.lean ====
section
/-! DEFINITION. The bus contract: an access is broadcast to every peripheral in registration order
(spec/20_memory.md R92 to R95). A peripheral that does not handle an address answers `none` and so changes nothing. -/

namespace Sys2Proof.Machine

open Sys2Proof

/-- A peripheral's read: the value and the state after it, or `none` where the address is not its own (R92). -/
abbrev Reader (w : Nat) := BitVec w → State → Option (Byte × State)

/-- A peripheral's write: the state after it, or `none` where the address is not its own (R92). -/
abbrev Writer (w : Nat) := BitVec w → Byte → State → Option State

/-- One peripheral's part in a broadcast read: a handler's value replaces the value so far (R94). -/
def readTurn {w : Nat} (a : BitVec w) (acc : Bool × Byte × State) (r : Reader w) : Bool × Byte × State :=
  match r a acc.2.2 with
  | none => acc
  | some (v, s) => (true, v, s)

/-- One peripheral's part in a broadcast write (R95). -/
def writeTurn {w : Nat} (a : BitVec w) (v : Byte) (acc : Bool × State) (p : Writer w) : Bool × State :=
  match p a v acc.2 with
  | none => acc
  | some s => (true, s)

/-- `BusRead(bus, addr)`: handled, value, state after (R94). -/
def busRead {w : Nat} (bus : List (Reader w)) (a : BitVec w) (s : State) : Bool × Byte × State :=
  bus.foldl (readTurn a) (false, busDefault, s)

/-- `BusWrite(bus, addr, v)`: handled, state after (R95). -/
def busWrite {w : Nat} (bus : List (Writer w)) (a : BitVec w) (v : Byte) (s : State) : Bool × State :=
  bus.foldl (writeTurn a v) (false, s)

end Sys2Proof.Machine
end

