-- ==== Sys2Proof/Machine/Devices.lean ====
section
/-! DEFINITION. The simple CPU-bus peripherals: work RAM, controller port, host-call bridge
(spec/46_bus_peripherals.md R430 to R453). -/

namespace Sys2Proof.Machine

open Sys2Proof

/-- The work-RAM index of a CPU-bus address: 2048 bytes, visible four times (R430). -/
def ramIndex (a : Word) : Nat := a.toNat % 0x0800

/-- `Ram.read` (R430). -/
def ramRead : Reader 16 := fun a s =>
  if a.toNat ≤ 0x1FFF then some (Mem.read s.ram (ramIndex a), s) else none

/-- `Ram.write` (R431). -/
def ramWrite : Writer 16 := fun a v s =>
  if a.toNat ≤ 0x1FFF then some { s with ram := Mem.write s.ram (ramIndex a) v } else none

/-- `Controller.write`: a byte with bit 0 set samples the buttons, a free value (R440; n5). -/
def controllerWrite : Writer 16 := fun a v s =>
  if a = ctrlPort then
    some (if v.getLsbD 0 then { s with ctrlShift := Config.buttons s.draws, draws := s.draws + 1 } else s)
  else none

/-- `Controller.read`: the top bit, then a shift left with 0 coming in (R442). -/
def controllerRead : Reader 16 := fun a s =>
  if a = ctrlPort then
    some (if s.ctrlShift.getLsbD 7 then 0x01 else 0x00, { s with ctrlShift := s.ctrlShift <<< 1 })
  else none

/-- `Invoke()`: the callback runs inside the write, confined to work RAM (R447, R452, D43; n8). -/
def hostInvoke (s : State) : State :=
  let running := { s.hc with phase := .inCall }
  let a0 := running.args.get 0
  let a1 := running.args.get 1
  let a2 := running.args.get 2
  let a3 := running.args.get 3
  let seen := Mem.bytes s.ram 2048
  let ret := Config.hostReturn running.id a0 a1 a2 a3 seen
  let ram := Mem.tabulate (Config.hostRam running.id a0 a1 a2 a3 seen) 0 2048
  { s with ram := ram, hc := { running with ret := ret, phase := .idle } }

/-- `WriteIdle(v)`: the byte is a call id (R447); an unregistered one changes nothing (R451). -/
def hostWriteIdle (v : Byte) (s : State) : State :=
  match Config.hostArity v with
  | none => s
  | some n =>
    let s := { s with hc := { s.hc with id := v, args := #v[0, 0, 0, 0], got := 0 } }
    if n.val = 0 then hostInvoke s else { s with hc := { s.hc with phase := .collecting } }

/-- The declared argument count of the call in progress. -/
def hostDeclared (id : Byte) : Nat :=
  match Config.hostArity id with
  | none => 0
  | some n => n.val

/-- `WriteCollecting(v)`: the byte is an argument; the last one invokes the callback (R448). -/
def hostWriteCollecting (v : Byte) (s : State) : State :=
  let s := { s with hc := { s.hc with args := s.hc.args.setIfInBounds s.hc.got v, got := s.hc.got + 1 } }
  if s.hc.got = hostDeclared s.hc.id then hostInvoke s else s

/-- `HostCallBridge.write` (R446); a write during a call is ignored (R449). -/
def hostWrite : Writer 16 := fun a v s =>
  if isHostcallPort a then
    some (match s.hc.phase with
      | .idle => hostWriteIdle v s
      | .collecting => hostWriteCollecting v s
      | .inCall => s)
  else none

/-- `HostCallBridge.read`: the last stored return value (R450). -/
def hostRead : Reader 16 := fun a s => if isHostcallPort a then some (s.hc.ret, s) else none

end Sys2Proof.Machine
end

