-- ==== Sys2Proof/Machine/MapperOps.lean ====
section
/-! DEFINITION. The cartridge: the mapper's serial write protocol, program read mapping, graphics storage
(spec/47_cartridge_mapper.md R484 to R507), and its construction (R480, R481). -/

namespace Sys2Proof.Machine

open Sys2Proof

/-- `mirror`, bits 1:0 of the control register (R484). -/
def mirrorBits (m : Mapper) : BitVec 2 := m.ctrl.extractLsb' 0 2

/-- `prg_mode`, bits 3:2 of the control register (R484). -/
def prgMode (m : Mapper) : BitVec 2 := m.ctrl.extractLsb' 2 2

/-- The "separate windows" bit, bit 3 of the control register (R484). -/
def separateWindows (m : Mapper) : Bool := m.ctrl.getLsbD 3

/-- `chr_mode`, bit 4 of the control register (R484). -/
def chrMode (m : Mapper) : Bool := m.ctrl.getLsbD 4

/-- `ResetWrite()` (R487). -/
def mapperResetWrite (m : Mapper) : Mapper := { m with sr := 0b10000, wc := 0, ctrl := mapperCtrlReset }

/-- A commit to the program-bank register: the layout in force decides which bank registers take `val` (R493). -/
def commitPrg (banks : Nat) (val : BitVec 5) (m : Mapper) : Mapper :=
  match (prgMode m).toNat with
  | 0 => { m with prgMerged := (val >>> 1).setWidth 4 }
  | 1 => { m with prgMerged := (val >>> 1).setWidth 4 }
  | 2 => { m with prgFirst := 0, prgSecond := val.toNat }
  | _ => { m with prgFirst := val, prgSecond := banks - 1 }

/-- A commit to the first graphics register (R491). -/
def commitChr (val : BitVec 5) (m : Mapper) : Mapper :=
  if chrMode m then { m with chrFirst := val } else { m with chrMerged := (val >>> 1).setWidth 4 }

/-- `Commit(r, val)` (R489 to R493). -/
def mapperCommit (banks : Nat) (r : BitVec 2) (val : BitVec 5) (m : Mapper) : Mapper :=
  match r.toNat with
  | 0 => { m with ctrl := val }
  | 1 => commitChr val m
  | 2 => { m with chrSecond := val }
  | _ => commitPrg banks val m

/-- The shift register after the data bit `b` (R488). -/
def serialShift (sr : BitVec 5) (b : Bool) : BitVec 5 := (sr >>> 1) ||| (if b then 0b10000#5 else 0#5)

/-- `DataWrite(addr, v)`: the fifth one commits and re-arms the shift register (R488, R494). -/
def mapperDataWrite (banks : Nat) (a : Word) (v : Byte) (m : Mapper) : Mapper :=
  let sr := serialShift m.sr (v.getLsbD 0)
  if m.wc + 1 = 5 then
    { mapperCommit banks (a.extractLsb' 13 2) sr m with sr := 0b10000, wc := 0 }
  else { m with sr := sr, wc := m.wc + 1 }

/-- A CPU-bus write at or above 0x8000, on the mapper (R486). -/
def mapperWrite (banks : Nat) (a : Word) (v : Byte) (m : Mapper) : Mapper :=
  if v.getLsbD 7 then mapperResetWrite m else mapperDataWrite banks a v m

/-- `Cartridge.write` on the CPU bus: program storage is never written (R482, R486). -/
def cartWrite (a : Word) (v : Byte) (s : State) : Option State :=
  if a.toNat < 0x8000 then none else some { s with mp := mapperWrite s.cart.prgBanks a v s.mp }

/-- The program-storage index that CPU-bus address `a` shows (R500, R503). -/
def prgIndex (banks : Nat) (m : Mapper) (a : Word) : Nat :=
  if separateWindows m then
    ((if a.toNat < 0xC000 then m.prgFirst.toNat else m.prgSecond) % banks) * 16384 + a.toNat % 0x4000
  else (m.prgMerged.toNat * 32768 + a.toNat % 0x8000) % (banks * 16384)

/-- `Cartridge.read` on the CPU bus (R500). -/
def cartRead (a : Word) (s : State) : Option (Byte × State) :=
  if a.toNat < 0x8000 then none else some (Mem.read s.cart.prg (prgIndex s.cart.prgBanks s.mp a), s)

/-- `Cartridge.ppu_read`: the graphics bus maps identically (R504). -/
def cartPpuRead (a : PpuAddr) (s : State) : Option (Byte × State) :=
  if a.toNat ≤ 0x1FFF then some (Mem.read s.cart.chr a.toNat, s) else none

/-- `Cartridge.ppu_write` (R505). -/
def cartPpuWrite (a : PpuAddr) (v : Byte) (s : State) : Option State :=
  if a.toNat ≤ 0x1FFF then some { s with cart := { s.cart with chr := Mem.write s.cart.chr a.toNat v } } else none

end Sys2Proof.Machine
end

