-- ==== Sys2Proof/Machine/PpuBus.lean ====
section
/-! DEFINITION. The PPU bus: nametables, palette, graphics storage (spec/20_memory.md R100 to R105). -/

namespace Sys2Proof.Machine

open Sys2Proof

/-- `NtSel(addr)`: the physical table of logical table `t` under nametable arrangement `m` (R104). -/
def ntSelect (m t : BitVec 2) : Nat :=
  match m.toNat with
  | 0 => 0
  | 1 => 1
  | 2 => if t.getLsbD 0 then 1 else 0
  | _ => if t.getLsbD 1 then 1 else 0

/-- The nametable index of a PPU-bus address in 0x2000 to 0x3EFF (R103, R104). -/
def ntIndex (m : Mapper) (a : PpuAddr) : Nat :=
  1024 * ntSelect (mirrorBits m) (a.extractLsb' 10 2) + a.toNat % 0x400

/-- `PalIdx(addr)` (R105). -/
def palIndex (a : PpuAddr) : Nat :=
  let i := a.toNat % 0x20
  if paletteAlias && (i == 0x10 || i == 0x14 || i == 0x18 || i == 0x1C) then i - 0x10 else i

/-- The PPU's own video RAM, read side (R103). -/
def vramRead : Reader 14 := fun a s =>
  if a.toNat < 0x2000 then none
  else if a.toNat < 0x3F00 then some (Mem.read s.ppu.nt (ntIndex s.mp a), s)
  else some (Mem.read s.ppu.pal (palIndex a), s)

/-- The PPU's own video RAM, write side (R103). -/
def vramWrite : Writer 14 := fun a v s =>
  if a.toNat < 0x2000 then none
  else if a.toNat < 0x3F00 then some { s with ppu := { s.ppu with nt := Mem.write s.ppu.nt (ntIndex s.mp a) v } }
  else some { s with ppu := { s.ppu with pal := Mem.write s.ppu.pal (palIndex a) v } }

/-- The PPU bus's readers in registration order (R102). -/
def ppuReaders : List (Reader 14) := [vramRead, cartPpuRead]

/-- The PPU bus's writers in registration order (R102). -/
def ppuWriters : List (Writer 14) := [vramWrite, cartPpuWrite]

/-- `PpuRead(addr)`: the address modulo 16384, the value and the state after (R91, R100). -/
def ppuBusRead (a : Word) (s : State) : Byte × State := (busRead ppuReaders (a.setWidth 14) s).2

/-- `PpuWrite(addr, v)` (R91, R101). -/
def ppuBusWrite (a : Word) (v : Byte) (s : State) : State := (busWrite ppuWriters (a.setWidth 14) v s).2

end Sys2Proof.Machine
end

