-- ==== Sys2Proof/Machine/PpuOps.lean ====
section
/-! DEFINITION. The PPU's register interface and its timing engine (spec/48_ppu.md R520 to R553). -/

namespace Sys2Proof.Machine

open Sys2Proof

/-- `Inc()` (R532). -/
def ppuInc (p : Ppu) : Word := if p.ctrl.getLsbD 2 then 32 else 1

/-- `ReadStatus()`: the value before the clear; bits 7, 6, 5 and the write toggle are cleared (R524). -/
def readStatus (s : State) : Byte × State :=
  (s.ppu.status, { s with ppu := { s.ppu with status := s.ppu.status &&& 0x1F, w := false } })

/-- `ReadOamData()` (R526). -/
def readOamData (s : State) : Byte × State := (Mem.read s.ppu.oam s.ppu.oamaddr.toNat, s)

/-- The latched address after a data-port access (R530, R531). -/
def stepPpuAddr (s : State) : State := { s with ppu := { s.ppu with addr := s.ppu.addr + ppuInc s.ppu } }

/-- `ReadData()`: unbuffered (R530). -/
def readData (s : State) : Byte × State :=
  let r := ppuBusRead s.ppu.addr s
  (r.1, stepPpuAddr r.2)

/-- `WriteOamData(v)` (R527). -/
def writeOamData (v : Byte) (s : State) : State :=
  { s with
    ppu := { s.ppu with oam := Mem.write s.ppu.oam s.ppu.oamaddr.toNat v, oamaddr := s.ppu.oamaddr + 1 } }

/-- `WriteScroll(v)` (R528). -/
def writeScroll (v : Byte) (p : Ppu) : Ppu :=
  { p with
    hscroll := if p.w then p.hscroll else v
    vscroll := if p.w then v else p.vscroll
    w := !p.w }

/-- `WriteAddr(v)`: high byte first (R529). -/
def writeAddr (v : Byte) (p : Ppu) : Ppu :=
  { p with addr := if p.w then pair (hi p.addr) v else pair v (lo p.addr), w := !p.w }

/-- `WriteData(v)` (R531). -/
def writeData (v : Byte) (s : State) : State := stepPpuAddr (ppuBusWrite s.ppu.addr v s)

/-- `Ppu.write` (R520): all eight register numbers are handled, number 2 without effect. -/
def ppuPortWrite : Writer 16 := fun a v s =>
  if a.toNat < 0x2000 ∨ 0x3FFF < a.toNat then none
  else
    some (match a.toNat % 8 with
      | 0 => { s with ppu := { s.ppu with ctrl := v } }
      | 1 => { s with ppu := { s.ppu with mask := v } }
      | 2 => s
      | 3 => { s with ppu := { s.ppu with oamaddr := v } }
      | 4 => writeOamData v s
      | 5 => { s with ppu := writeScroll v s.ppu }
      | 6 => { s with ppu := writeAddr v s.ppu }
      | _ => writeData v s)

/-- `Ppu.read` (R520): numbers 2, 4 and 7 are handled, the others are not (R521). -/
def ppuPortRead : Reader 16 := fun a s =>
  if a.toNat < 0x2000 ∨ 0x3FFF < a.toNat then none
  else
    match a.toNat % 8 with
    | 2 => some (readStatus s)
    | 4 => some (readOamData s)
    | 7 => some (readData s)
    | _ => none

/-- `nmi()` (R404): requests merge. -/
def requestNmi (s : State) : State := { s with cpu := { s.cpu with nmiPending := true } }

/-- Is the PPU tick at this position the vblank event (R545)? -/
def vblankDue (p : Ppu) : Bool := p.scanline == 241 && p.dot == 1

/-- Will this PPU tick request an NMI (R546)? -/
def nmiDue (p : Ppu) : Bool := vblankDue p && p.ctrl.getLsbD 7

/-- The status register after the events of this position: pre-render clear, sprite-zero-hit, vblank
(R541, R543, R545). -/
def statusEvents (p : Ppu) : Byte :=
  let v := if p.scanline = 261 ∧ p.dot = 1 then p.status &&& 0x3F else p.status
  let v := if p.scanline ≤ 239 ∧ p.scanline = spr0HitScanline ∧ p.dot = spr0HitDot then v ||| 0x40 else v
  if vblankDue p then v ||| 0x80 else v

/-- The OAM address after the events of this position (R542, R544). -/
def oamaddrEvents (p : Ppu) : Byte :=
  if p.scanline = 261 ∧ (p.dot = 257 ∨ p.dot = 320) then 0
  else if p.scanline ≤ 239 ∧ p.dot = 257 then 0
  else p.oamaddr

/-- The events of this position on the PPU's registers (R540 to R545). -/
def ppuEvents (p : Ppu) : Ppu :=
  { p with
    status := statusEvents p
    oamaddr := oamaddrEvents p
    displayScroll := if vblankDue p then p.hscroll else p.displayScroll }

/-- The number of dots of the current line (R548, R550). -/
def lineWidth (p : Ppu) : Nat := if p.scanline = 261 ∧ p.frame % 2 = 1 then 340 else 341

/-- `Advance()` (R548). -/
def ppuAdvance (p : Ppu) : Ppu :=
  if p.dot + 1 = lineWidth p then
    if p.scanline + 1 = 262 then { p with dot := 0, scanline := 0, frame := p.frame + 1 }
    else { p with dot := 0, scanline := p.scanline + 1 }
  else { p with dot := p.dot + 1 }

/-- `PpuTick()`: the events of the current position, the NMI request, then the advance (R540). The rendering pass is an
output, Machine/Render.lean. -/
def ppuTick (s : State) : State :=
  { s with
    ppu := ppuAdvance (ppuEvents s.ppu)
    cpu := { s.cpu with nmiPending := s.cpu.nmiPending || nmiDue s.ppu } }

end Sys2Proof.Machine
end

