-- ==== Sys2Proof/Machine/Bus.lean ====
section
/-! DEFINITION. The CPU bus: its peripherals in registration order, `MemRead`, `MemWrite`, and the sprite DMA
(spec/20_memory.md R94 to R98; spec/45_cpu_core_glue.md R403 to R406; spec/48_ppu.md R534). -/

namespace Sys2Proof.Machine

open Sys2Proof

/-- `Apu.read` on the bus; the audio producer may take a turn before the access (R601, R602, R120; n6). -/
def apuPortRead : Reader 16 := fun a s =>
  match apuRead a s.apu with
  | none => none
  | some _ =>
    let s := audioTurn s
    some ((apuRead a s.apu).getD busDefault, s)

/-- `Apu.write` on the bus; the audio producer may take a turn before the access (R600, R602, R120; n6). -/
def apuPortWrite : Writer 16 := fun a v s =>
  match apuWrite a v s.apu with
  | none => none
  | some _ =>
    let s := audioTurn s
    some { s with apu := (apuWrite a v s.apu).getD s.apu }

/-- `CpuCore.read`: not handled at any address (R405). -/
def cpuPortRead : Reader 16 := fun _ _ => none

/-- The CPU bus's readers in registration order (R96). -/
def cpuReaders : List (Reader 16) :=
  [ramRead, controllerRead, hostRead, cpuPortRead, ppuPortRead, apuPortRead, cartRead]

/-- `MemRead(addr, 1)`, in short `Rd(addr)`: the value and the state after it (R94). -/
def rd (a : Word) (s : State) : Byte × State := (busRead cpuReaders a s).2

/-- One byte of the sprite DMA copy (R534). -/
def oamDmaByte (page : Byte) (s : State) (i : Nat) : State :=
  let r := rd (pair page (BitVec.ofNat 8 i)) s
  let s := r.2
  { s with ppu := { s.ppu with oam := Mem.write s.ppu.oam ((s.ppu.oamaddr.toNat + i) % 256) r.1 } }

/-- `PpuOamDma(page)`: 256 reads and 256 OAM writes, in increasing order (R534). -/
def oamDma (page : Byte) (s : State) : State := (List.range 256).foldl (oamDmaByte page) s

/-- `halt(cycles)` (R403). -/
def haltCpu (cycles : Nat) (s : State) : State := { s with cpu := { s.cpu with halt := cycles } }

/-- The stall of the DMA that makes draw number `k`: 513 or 514 (R406, D30; n4). -/
def dmaStall (k : Nat) : Nat := if Config.dmaLong k then 514 else 513

/-- `CpuCore.write`: the sprite-DMA port (R406). -/
def cpuPortWrite : Writer 16 := fun a v s =>
  if a = dmaPort then
    let s := oamDma v s
    some { haltCpu (dmaStall s.draws) s with draws := s.draws + 1 }
  else none

/-- The CPU bus's writers in registration order (R96). -/
def cpuWriters : List (Writer 16) :=
  [ramWrite, controllerWrite, hostWrite, cpuPortWrite, ppuPortWrite, apuPortWrite, cartWrite]

/-- `MemWrite(addr, 1, v)`, in short `Wr(addr, v)` (R95). -/
def wr (a : Word) (v : Byte) (s : State) : State := (busWrite cpuWriters a v s).2

/-- What the CPU bus shows at `a` without any side effect, for the two kinds of storage a program runs from: work RAM
and program storage. -/
def peek (a : Word) (s : State) : Byte :=
  if a.toNat ≤ 0x1FFF then Mem.read s.ram (ramIndex a)
  else if a.toNat < 0x8000 then busDefault
  else Mem.read s.cart.prg (prgIndex s.cart.prgBanks s.mp a)

end Sys2Proof.Machine
end

