-- ==== Sys2Proof/Machine/Ops.lean ====
section
/-! DEFINITION. The named operations over registers and memory: register updates, 16-bit reads, the stack, moving past an
instruction, owing its ticks, taking an interrupt and returning from one (spec/30_encoding.md R160; spec/20_memory.md
R108; spec/60_exceptions.md R710, R713; spec/45_cpu_core_glue.md R400). -/

namespace Sys2Proof.Machine

open Sys2Proof

/-- `A <- v`. -/
def setA (v : Byte) (s : State) : State := { s with cpu := { s.cpu with a := v } }

/-- `X <- v`. -/
def setX (v : Byte) (s : State) : State := { s with cpu := { s.cpu with x := v } }

/-- `Y <- v`. -/
def setY (v : Byte) (s : State) : State := { s with cpu := { s.cpu with y := v } }

/-- `S <- v`. -/
def setS (v : Byte) (s : State) : State := { s with cpu := { s.cpu with s := v } }

/-- `PC <- v`. -/
def setPc (v : Word) (s : State) : State := { s with cpu := { s.cpu with pc := v } }

/-- All six flags. -/
def setP (p : Status) (s : State) : State := { s with cpu := { s.cpu with p := p } }

/-- `pending <- n`. -/
def setPending (n : Nat) (s : State) : State := { s with cpu := { s.cpu with pending := n } }

/-- `nmi_pending <- b`. -/
def setNmiPending (b : Bool) (s : State) : State := { s with cpu := { s.cpu with nmiPending := b } }

/-- Past an instruction of `n` bytes: `PC` at the next instruction (R22). -/
def skip (n : Nat) (s : State) : State := setPc (s.cpu.pc + BitVec.ofNat 16 n) s

/-- The ticks an instruction or interrupt sequence of `n` ticks still owes after its first (R400). -/
def retire (n : Nat) (s : State) : State := setPending (n - 1) s

/-- Two byte reads, the low byte at `al` first, then the high byte at `ah` (R108). -/
def rdPair (al ah : Word) (s : State) : Word × State :=
  let l := rd al s
  let h := rd ah l.2
  (pair h.1 l.1, h.2)

/-- `Rd16(addr)` with plain 16-bit wrap, for vectors (R108). -/
def rd16 (a : Word) (s : State) : Word × State := rdPair a (a + 1) s

/-- The CPU-bus address of stack slot `s` (R21). -/
def stackAddr (s : Byte) : Word := 0x0100 + s.setWidth 16

/-- `Push(v)` (R160). -/
def push (v : Byte) (s : State) : State :=
  let t := wr (stackAddr s.cpu.s) v s
  setS (t.cpu.s - 1) t

/-- `Pull()` (R160). -/
def pull (s : State) : Byte × State :=
  let t := setS (s.cpu.s + 1) s
  rd (stackAddr t.cpu.s) t

/-- Two pushes: the high byte, then the low byte (R311, R710). -/
def pushWord (w : Word) (s : State) : State := push (lo w) (push (hi w) s)

/-- Two pulls: the low byte, then the high byte (R312, R323). -/
def pullWord (s : State) : Word × State :=
  let l := pull s
  let h := pull l.2
  (pair h.1 l.1, h.2)

/-- `PByte(b)`: the status byte as it is pushed (R24). -/
def pByte (b : Bool) (p : Status) : Byte :=
  BitVec.ofBool p.n ++ BitVec.ofBool p.v ++ 1#1 ++ BitVec.ofBool b ++ BitVec.ofBool p.d ++ BitVec.ofBool p.i
    ++ BitVec.ofBool p.z ++ BitVec.ofBool p.c

/-- The flags a status byte loads; bits 5 and 4 are ignored (R24). -/
def flagsOfByte (v : Byte) : Status :=
  { n := v.getLsbD 7, v := v.getLsbD 6, d := v.getLsbD 3, i := v.getLsbD 2, z := v.getLsbD 1, c := v.getLsbD 0 }

/-- Entering a handler, the one operation behind NMI, IRQ and BRK: the return address and the status byte (bit 4 = `b`)
are pushed, `I` is set and `PC` is loaded from the vector (R710, R322). -/
def enterHandler (ret : Word) (b : Bool) (vector : Word) (s : State) : State :=
  let s := pushWord ret s
  let s := push (pByte b s.cpu.p) s
  let s := setP { s.cpu.p with i := true } s
  let r := rd16 vector s
  setPc r.1 r.2

/-- `InterruptEntry(vector)` for NMI and IRQ (R710). -/
def interruptEntry (vector : Word) (s : State) : State := enterHandler s.cpu.pc false vector s

/-- Returning from a handler: the flags, then `PC`, from the stack (R323, R713). -/
def returnFromInterrupt (s : State) : State :=
  let v := pull s
  let r := pullWord (setP (flagsOfByte v.1) v.2)
  setPc r.1 r.2

end Sys2Proof.Machine
end

