-- ==== Sys2Proof/Machine/Flags.lean ====
section
/-! DEFINITION. Every flag computation (spec/41_cpu_arithmetic_logic.md R240 to R250; spec/42_cpu_shift_incdec.md R280 to
R289; spec/00_scope.md R7). Each takes the operands and the incoming flags and gives the result and the flags after. -/

namespace Sys2Proof.Machine

open Sys2Proof

/-- `SetNZ(v)` (R7). -/
def setNZ (v : Byte) (p : Status) : Status := { p with n := v.msb, z := v == 0 }

/-- The carry as a number. -/
def carryNat (c : Bool) : Nat := if c then 1 else 0

/-- Binary ADC (R241). -/
def adcBinary (a m : Byte) (p : Status) : Byte × Status :=
  let t : BitVec 9 := a.setWidth 9 + m.setWidth 9 + BitVec.ofNat 9 (carryNat p.c)
  let r : Byte := t.setWidth 8
  (r, setNZ r { p with v := ((a ^^^ r) &&& (m ^^^ r)).msb, c := t.getLsbD 8 })

/-- Binary SBC: ADC of the operand's one's complement (R243). -/
def sbcBinary (a m : Byte) (p : Status) : Byte × Status := adcBinary a (m ^^^ 0xFF) p

/-- The low decimal digit sum of ADC, corrected (R242). -/
def adcLowDigit (a m : Byte) (c : Bool) : Nat :=
  let al := a.toNat % 16 + m.toNat % 16 + carryNat c
  if 0x0A ≤ al then (al + 0x06) % 16 + 0x10 else al

/-- ADC with `D = 1` where `CPU_DECIMAL` is true (R242). -/
def adcDecimal (a m : Byte) (p : Status) : Byte × Status :=
  let bin : Byte := a + m + BitVec.ofNat 8 (carryNat p.c)
  let t := (a &&& 0xF0).toNat + (m &&& 0xF0).toNat + adcLowDigit a m p.c
  let tb := BitVec.ofNat 8 t
  let u := if 0xA0 ≤ t then t + 0x60 else t
  (BitVec.ofNat 8 u,
    { p with n := tb.msb, v := ((a ^^^ tb) &&& (m ^^^ tb)).msb, c := decide (0x100 ≤ u), z := bin == 0 })

/-- The low decimal digit difference of SBC, corrected (R242). -/
def sbcLowDigit (a m : Byte) (c : Bool) : Int :=
  let al : Int := (a.toNat % 16 : Nat) - (m.toNat % 16 : Nat) - (1 - (carryNat c : Int))
  if al < 0 then (al - 0x06) % 16 - 0x10 else al

/-- SBC with `D = 1` where `CPU_DECIMAL` is true: the flags are those of the binary SBC (R242). -/
def sbcDecimal (a m : Byte) (p : Status) : Byte × Status :=
  let t : Int := ((a &&& 0xF0).toNat : Int) - (m &&& 0xF0).toNat + sbcLowDigit a m p.c
  (BitVec.ofInt 8 (if t < 0 then t - 0x60 else t), (sbcBinary a m p).2)

/-- ADC: decimal only if `CPU_DECIMAL` and `D` (R241, R242). -/
def adc (a m : Byte) (p : Status) : Byte × Status :=
  if cpuDecimal && p.d then adcDecimal a m p else adcBinary a m p

/-- SBC: decimal only if `CPU_DECIMAL` and `D` (R243, R242). -/
def sbc (a m : Byte) (p : Status) : Byte × Status :=
  if cpuDecimal && p.d then sbcDecimal a m p else sbcBinary a m p

/-- The flags of a compare of register `r` with `m`, unsigned (R247 to R249). -/
def compareFlags (r m : Byte) (p : Status) : Status :=
  { p with n := (r - m).msb, z := r == m, c := decide (m.toNat ≤ r.toNat) }

/-- The flags of BIT (R250). -/
def bitFlags (a m : Byte) (p : Status) : Status :=
  { p with n := m.getLsbD 7, v := m.getLsbD 6, z := (a &&& m) == 0 }

/-- ASL (R280). -/
def aslOp (m : Byte) (p : Status) : Byte × Status :=
  let r := m <<< 1
  (r, setNZ r { p with c := m.getLsbD 7 })

/-- LSR (R281). -/
def lsrOp (m : Byte) (p : Status) : Byte × Status :=
  let r := m >>> 1
  (r, setNZ r { p with c := m.getLsbD 0 })

/-- ROL (R282). -/
def rolOp (m : Byte) (p : Status) : Byte × Status :=
  let r := (m <<< 1) ||| (if p.c then 0x01 else 0x00)
  (r, setNZ r { p with c := m.getLsbD 7 })

/-- ROR (R283). -/
def rorOp (m : Byte) (p : Status) : Byte × Status :=
  let r := (m >>> 1) ||| (if p.c then 0x80 else 0x00)
  (r, setNZ r { p with c := m.getLsbD 0 })

/-- INC (R284). -/
def incOp (m : Byte) (p : Status) : Byte × Status := (m + 1, setNZ (m + 1) p)

/-- DEC (R285). -/
def decOp (m : Byte) (p : Status) : Byte × Status := (m - 1, setNZ (m - 1) p)

end Sys2Proof.Machine
end

