-- ==== Sys2Proof/Machine/Operands.lean ====
section
/-! DEFINITION. Addressing modes, the three uses of an effective address, and the shapes of instruction the families share
(spec/30_encoding.md R147 to R161). Every shape moves `PC` past the instruction, acts, and owes the instruction's ticks. -/

namespace Sys2Proof.Machine

open Sys2Proof

/-- The addressing modes that give an effective address, with their operand (R150 to R157). -/
inductive Mode where
  | zp (b : Byte)
  | zpx (b : Byte)
  | zpy (b : Byte)
  | abs (w : Word)
  | absx (w : Word)
  | absy (w : Word)
  | indx (b : Byte)
  | indy (b : Byte)
  deriving DecidableEq, Repr

/-- The length of an instruction in this mode (R141). -/
def modeLength : Mode → Nat
  | .zp _ | .zpx _ | .zpy _ | .indx _ | .indy _ => 2
  | .abs _ | .absx _ | .absy _ => 3

/-- An effective address, whether a page was crossed, and the state after the mode's own reads. -/
structure Ea where
  addr : Word
  cross : Bool
  st : State

/-- Do two addresses lie in different pages (R154, R159)? -/
def pageCross (a b : Word) : Bool := hi a != hi b

/-- A zero-page address (R150). -/
def zeroPage (b : Byte) : Word := b.setWidth 16

/-- `base` indexed by a register, a full 16-bit add (R154, R155, R157). -/
def indexed (base : Word) (index : Byte) (st : State) : Ea :=
  let a := base + index.setWidth 16
  { addr := a, cross := pageCross a base, st := st }

/-- The effective address of each mode (R150 to R157). -/
def effAddr (m : Mode) (s : State) : Ea :=
  match m with
  | .zp b => { addr := zeroPage b, cross := false, st := s }
  | .zpx b => { addr := zeroPage (b + s.cpu.x), cross := false, st := s }
  | .zpy b => { addr := zeroPage (b + s.cpu.y), cross := false, st := s }
  | .abs w => { addr := w, cross := false, st := s }
  | .absx w => indexed w s.cpu.x s
  | .absy w => indexed w s.cpu.y s
  | .indx b =>
    let p := b + s.cpu.x
    let r := rdPair (zeroPage p) (zeroPage (p + 1)) s
    { addr := r.1, cross := false, st := r.2 }
  | .indy b =>
    let r := rdPair (zeroPage b) (zeroPage (b + 1)) s
    indexed r.1 r.2.cpu.y r.2

/-- The target read through an absolute pointer: no carry into the pointer's high byte (R158). -/
def indirectTarget (ptr : Word) (s : State) : Word × State := rdPair ptr (pair (hi ptr) (lo ptr + 1)) s

/-- The target of a branch with offset `b` when `PC` addresses the next instruction (R159). -/
def branchTarget (pc : Word) (b : Byte) : Word := pc + sext16 b

/-- An operand value, whether its mode crossed a page, and the state after the mode's reads and the operand's. -/
structure Operand where
  value : Byte
  cross : Bool
  st : State

/-- The operand `m` of a read instruction: one read at the effective address (R161). -/
def readOperand (m : Mode) (s : State) : Operand :=
  let e := effAddr m s
  let r := rd e.addr e.st
  { value := r.1, cross := e.cross, st := r.2 }

/-- A one-byte instruction (R147): `f` acts on the state whose `PC` is past it. -/
def impliedInstr (i : Instr) (f : State → State) (s : State) : Host.Outcome State Fault Refusal :=
  .next (retire (cpuCycles i false false) (f (skip 1 s)))

/-- An instruction with an immediate operand (R149). -/
def immediateInstr (i : Instr) (b : Byte) (f : Byte → State → State) (s : State) :
    Host.Outcome State Fault Refusal :=
  .next (retire (cpuCycles i false false) (f b (skip 2 s)))

/-- A *read* instruction (R161). -/
def readInstr (i : Instr) (m : Mode) (f : Byte → State → State) (s : State) : Host.Outcome State Fault Refusal :=
  let o := readOperand m (skip (modeLength m) s)
  .next (retire (cpuCycles i o.cross false) (f o.value o.st))

/-- A *write* instruction: one write of `v` of the registers, no read of the effective address (R161). -/
def writeInstr (i : Instr) (m : Mode) (v : Cpu → Byte) (s : State) : Host.Outcome State Fault Refusal :=
  let e := effAddr m (skip (modeLength m) s)
  .next (retire (cpuCycles i e.cross false) (wr e.addr (v e.st.cpu) e.st))

/-- A *read-modify-write* instruction: one read, one write of the result, the flags of the result (R161). -/
def modifyInstr (i : Instr) (m : Mode) (f : Byte → Status → Byte × Status) (s : State) :
    Host.Outcome State Fault Refusal :=
  let e := effAddr m (skip (modeLength m) s)
  let o := rd e.addr e.st
  let r := f o.1 o.2.cpu.p
  .next (retire (cpuCycles i e.cross false) (setP r.2 (wr e.addr r.1 o.2)))

/-- The accumulator form of a read-modify-write instruction (R148). -/
def accumulatorInstr (i : Instr) (f : Byte → Status → Byte × Status) (s : State) :
    Host.Outcome State Fault Refusal :=
  let t := skip 1 s
  let r := f t.cpu.a t.cpu.p
  .next (retire (cpuCycles i false false) (setP r.2 (setA r.1 t)))

/-- A conditional branch (R313). -/
def branchInstr (i : Instr) (cond : Bool) (b : Byte) (s : State) : Host.Outcome State Fault Refusal :=
  let t := skip 2 s
  let target := branchTarget t.cpu.pc b
  if cond then .next (retire (cpuCycles i (pageCross target t.cpu.pc) true) (setPc target t))
  else .next (retire (cpuCycles i false false) t)

end Sys2Proof.Machine
end

