-- ==== Sys2Proof/Machine/Arithmetic.lean ====
section
/-! DEFINITION. Arithmetic, logic, compare and bit test (spec/41_cpu_arithmetic_logic.md R240 to R250). -/

namespace Sys2Proof.Machine

open Sys2Proof

/-- A result for the accumulator and the flags with it. -/
def putA (r : Byte × Status) (s : State) : State := setP r.2 (setA r.1 s)

/-- ADC (R241). -/
def adcA (m : Byte) (s : State) : State := putA (adc s.cpu.a m s.cpu.p) s

/-- SBC (R243). -/
def sbcA (m : Byte) (s : State) : State := putA (sbc s.cpu.a m s.cpu.p) s

/-- AND (R244). -/
def andA (m : Byte) (s : State) : State := putA (s.cpu.a &&& m, setNZ (s.cpu.a &&& m) s.cpu.p) s

/-- ORA (R245). -/
def oraA (m : Byte) (s : State) : State := putA (s.cpu.a ||| m, setNZ (s.cpu.a ||| m) s.cpu.p) s

/-- EOR (R246). -/
def eorA (m : Byte) (s : State) : State := putA (s.cpu.a ^^^ m, setNZ (s.cpu.a ^^^ m) s.cpu.p) s

/-- CMP (R247). -/
def compareA (m : Byte) (s : State) : State := setP (compareFlags s.cpu.a m s.cpu.p) s

/-- CPX (R248). -/
def compareX (m : Byte) (s : State) : State := setP (compareFlags s.cpu.x m s.cpu.p) s

/-- CPY (R249). -/
def compareY (m : Byte) (s : State) : State := setP (compareFlags s.cpu.y m s.cpu.p) s

/-- BIT (R250). -/
def bitTest (m : Byte) (s : State) : State := setP (bitFlags s.cpu.a m s.cpu.p) s

/-- ADC IMM, 69 (2, 2) (R241). -/
def execAdcImm (b : Byte) (s : State) : Host.Outcome State Fault Refusal :=
  immediateInstr (.adcImm b) b adcA s

/-- ADC ZP, 65 (2, 3) (R241). -/
def execAdcZp (b : Byte) (s : State) : Host.Outcome State Fault Refusal :=
  readInstr (.adcZp b) (.zp b) adcA s

/-- ADC ZPX, 75 (2, 4) (R241). -/
def execAdcZpx (b : Byte) (s : State) : Host.Outcome State Fault Refusal :=
  readInstr (.adcZpx b) (.zpx b) adcA s

/-- ADC ABS, 6D (3, 4) (R241). -/
def execAdcAbs (w : Word) (s : State) : Host.Outcome State Fault Refusal :=
  readInstr (.adcAbs w) (.abs w) adcA s

/-- ADC ABSX, 7D (3, 4+p) (R241). -/
def execAdcAbsx (w : Word) (s : State) : Host.Outcome State Fault Refusal :=
  readInstr (.adcAbsx w) (.absx w) adcA s

/-- ADC ABSY, 79 (3, 4+p) (R241). -/
def execAdcAbsy (w : Word) (s : State) : Host.Outcome State Fault Refusal :=
  readInstr (.adcAbsy w) (.absy w) adcA s

/-- ADC INDX, 61 (2, 6) (R241). -/
def execAdcIndx (b : Byte) (s : State) : Host.Outcome State Fault Refusal :=
  readInstr (.adcIndx b) (.indx b) adcA s

/-- ADC INDY, 71 (2, 5+p) (R241). -/
def execAdcIndy (b : Byte) (s : State) : Host.Outcome State Fault Refusal :=
  readInstr (.adcIndy b) (.indy b) adcA s

/-- SBC IMM, E9 (2, 2) (R243). -/
def execSbcImm (b : Byte) (s : State) : Host.Outcome State Fault Refusal :=
  immediateInstr (.sbcImm b) b sbcA s

/-- SBC ZP, E5 (2, 3) (R243). -/
def execSbcZp (b : Byte) (s : State) : Host.Outcome State Fault Refusal :=
  readInstr (.sbcZp b) (.zp b) sbcA s

/-- SBC ZPX, F5 (2, 4) (R243). -/
def execSbcZpx (b : Byte) (s : State) : Host.Outcome State Fault Refusal :=
  readInstr (.sbcZpx b) (.zpx b) sbcA s

/-- SBC ABS, ED (3, 4) (R243). -/
def execSbcAbs (w : Word) (s : State) : Host.Outcome State Fault Refusal :=
  readInstr (.sbcAbs w) (.abs w) sbcA s

/-- SBC ABSX, FD (3, 4+p) (R243). -/
def execSbcAbsx (w : Word) (s : State) : Host.Outcome State Fault Refusal :=
  readInstr (.sbcAbsx w) (.absx w) sbcA s

/-- SBC ABSY, F9 (3, 4+p) (R243). -/
def execSbcAbsy (w : Word) (s : State) : Host.Outcome State Fault Refusal :=
  readInstr (.sbcAbsy w) (.absy w) sbcA s

/-- SBC INDX, E1 (2, 6) (R243). -/
def execSbcIndx (b : Byte) (s : State) : Host.Outcome State Fault Refusal :=
  readInstr (.sbcIndx b) (.indx b) sbcA s

/-- SBC INDY, F1 (2, 5+p) (R243). -/
def execSbcIndy (b : Byte) (s : State) : Host.Outcome State Fault Refusal :=
  readInstr (.sbcIndy b) (.indy b) sbcA s

/-- AND IMM, 29 (2, 2) (R244). -/
def execAndImm (b : Byte) (s : State) : Host.Outcome State Fault Refusal :=
  immediateInstr (.andImm b) b andA s

/-- AND ZP, 25 (2, 3) (R244). -/
def execAndZp (b : Byte) (s : State) : Host.Outcome State Fault Refusal :=
  readInstr (.andZp b) (.zp b) andA s

/-- AND ZPX, 35 (2, 4) (R244). -/
def execAndZpx (b : Byte) (s : State) : Host.Outcome State Fault Refusal :=
  readInstr (.andZpx b) (.zpx b) andA s

/-- AND ABS, 2D (3, 4) (R244). -/
def execAndAbs (w : Word) (s : State) : Host.Outcome State Fault Refusal :=
  readInstr (.andAbs w) (.abs w) andA s

/-- AND ABSX, 3D (3, 4+p) (R244). -/
def execAndAbsx (w : Word) (s : State) : Host.Outcome State Fault Refusal :=
  readInstr (.andAbsx w) (.absx w) andA s

/-- AND ABSY, 39 (3, 4+p) (R244). -/
def execAndAbsy (w : Word) (s : State) : Host.Outcome State Fault Refusal :=
  readInstr (.andAbsy w) (.absy w) andA s

/-- AND INDX, 21 (2, 6) (R244). -/
def execAndIndx (b : Byte) (s : State) : Host.Outcome State Fault Refusal :=
  readInstr (.andIndx b) (.indx b) andA s

/-- AND INDY, 31 (2, 5+p) (R244). -/
def execAndIndy (b : Byte) (s : State) : Host.Outcome State Fault Refusal :=
  readInstr (.andIndy b) (.indy b) andA s

/-- ORA IMM, 09 (2, 2) (R245). -/
def execOraImm (b : Byte) (s : State) : Host.Outcome State Fault Refusal :=
  immediateInstr (.oraImm b) b oraA s

/-- ORA ZP, 05 (2, 3) (R245). -/
def execOraZp (b : Byte) (s : State) : Host.Outcome State Fault Refusal :=
  readInstr (.oraZp b) (.zp b) oraA s

/-- ORA ZPX, 15 (2, 4) (R245). -/
def execOraZpx (b : Byte) (s : State) : Host.Outcome State Fault Refusal :=
  readInstr (.oraZpx b) (.zpx b) oraA s

/-- ORA ABS, 0D (3, 4) (R245). -/
def execOraAbs (w : Word) (s : State) : Host.Outcome State Fault Refusal :=
  readInstr (.oraAbs w) (.abs w) oraA s

/-- ORA ABSX, 1D (3, 4+p) (R245). -/
def execOraAbsx (w : Word) (s : State) : Host.Outcome State Fault Refusal :=
  readInstr (.oraAbsx w) (.absx w) oraA s

/-- ORA ABSY, 19 (3, 4+p) (R245). -/
def execOraAbsy (w : Word) (s : State) : Host.Outcome State Fault Refusal :=
  readInstr (.oraAbsy w) (.absy w) oraA s

/-- ORA INDX, 01 (2, 6) (R245). -/
def execOraIndx (b : Byte) (s : State) : Host.Outcome State Fault Refusal :=
  readInstr (.oraIndx b) (.indx b) oraA s

/-- ORA INDY, 11 (2, 5+p) (R245). -/
def execOraIndy (b : Byte) (s : State) : Host.Outcome State Fault Refusal :=
  readInstr (.oraIndy b) (.indy b) oraA s

/-- EOR IMM, 49 (2, 2) (R246). -/
def execEorImm (b : Byte) (s : State) : Host.Outcome State Fault Refusal :=
  immediateInstr (.eorImm b) b eorA s

/-- EOR ZP, 45 (2, 3) (R246). -/
def execEorZp (b : Byte) (s : State) : Host.Outcome State Fault Refusal :=
  readInstr (.eorZp b) (.zp b) eorA s

/-- EOR ZPX, 55 (2, 4) (R246). -/
def execEorZpx (b : Byte) (s : State) : Host.Outcome State Fault Refusal :=
  readInstr (.eorZpx b) (.zpx b) eorA s

/-- EOR ABS, 4D (3, 4) (R246). -/
def execEorAbs (w : Word) (s : State) : Host.Outcome State Fault Refusal :=
  readInstr (.eorAbs w) (.abs w) eorA s

/-- EOR ABSX, 5D (3, 4+p) (R246). -/
def execEorAbsx (w : Word) (s : State) : Host.Outcome State Fault Refusal :=
  readInstr (.eorAbsx w) (.absx w) eorA s

/-- EOR ABSY, 59 (3, 4+p) (R246). -/
def execEorAbsy (w : Word) (s : State) : Host.Outcome State Fault Refusal :=
  readInstr (.eorAbsy w) (.absy w) eorA s

/-- EOR INDX, 41 (2, 6) (R246). -/
def execEorIndx (b : Byte) (s : State) : Host.Outcome State Fault Refusal :=
  readInstr (.eorIndx b) (.indx b) eorA s

/-- EOR INDY, 51 (2, 5+p) (R246). -/
def execEorIndy (b : Byte) (s : State) : Host.Outcome State Fault Refusal :=
  readInstr (.eorIndy b) (.indy b) eorA s

/-- CMP IMM, C9 (2, 2) (R247). -/
def execCmpImm (b : Byte) (s : State) : Host.Outcome State Fault Refusal :=
  immediateInstr (.cmpImm b) b compareA s

/-- CMP ZP, C5 (2, 3) (R247). -/
def execCmpZp (b : Byte) (s : State) : Host.Outcome State Fault Refusal :=
  readInstr (.cmpZp b) (.zp b) compareA s

/-- CMP ZPX, D5 (2, 4) (R247). -/
def execCmpZpx (b : Byte) (s : State) : Host.Outcome State Fault Refusal :=
  readInstr (.cmpZpx b) (.zpx b) compareA s

/-- CMP ABS, CD (3, 4) (R247). -/
def execCmpAbs (w : Word) (s : State) : Host.Outcome State Fault Refusal :=
  readInstr (.cmpAbs w) (.abs w) compareA s

/-- CMP ABSX, DD (3, 4+p) (R247). -/
def execCmpAbsx (w : Word) (s : State) : Host.Outcome State Fault Refusal :=
  readInstr (.cmpAbsx w) (.absx w) compareA s

/-- CMP ABSY, D9 (3, 4+p) (R247). -/
def execCmpAbsy (w : Word) (s : State) : Host.Outcome State Fault Refusal :=
  readInstr (.cmpAbsy w) (.absy w) compareA s

/-- CMP INDX, C1 (2, 6) (R247). -/
def execCmpIndx (b : Byte) (s : State) : Host.Outcome State Fault Refusal :=
  readInstr (.cmpIndx b) (.indx b) compareA s

/-- CMP INDY, D1 (2, 5+p) (R247). -/
def execCmpIndy (b : Byte) (s : State) : Host.Outcome State Fault Refusal :=
  readInstr (.cmpIndy b) (.indy b) compareA s

/-- CPX IMM, E0 (2, 2) (R248). -/
def execCpxImm (b : Byte) (s : State) : Host.Outcome State Fault Refusal :=
  immediateInstr (.cpxImm b) b compareX s

/-- CPX ZP, E4 (2, 3) (R248). -/
def execCpxZp (b : Byte) (s : State) : Host.Outcome State Fault Refusal :=
  readInstr (.cpxZp b) (.zp b) compareX s

/-- CPX ABS, EC (3, 4) (R248). -/
def execCpxAbs (w : Word) (s : State) : Host.Outcome State Fault Refusal :=
  readInstr (.cpxAbs w) (.abs w) compareX s

/-- CPY IMM, C0 (2, 2) (R249). -/
def execCpyImm (b : Byte) (s : State) : Host.Outcome State Fault Refusal :=
  immediateInstr (.cpyImm b) b compareY s

/-- CPY ZP, C4 (2, 3) (R249). -/
def execCpyZp (b : Byte) (s : State) : Host.Outcome State Fault Refusal :=
  readInstr (.cpyZp b) (.zp b) compareY s

/-- CPY ABS, CC (3, 4) (R249). -/
def execCpyAbs (w : Word) (s : State) : Host.Outcome State Fault Refusal :=
  readInstr (.cpyAbs w) (.abs w) compareY s

/-- BIT ZP, 24 (2, 3) (R250). -/
def execBitZp (b : Byte) (s : State) : Host.Outcome State Fault Refusal :=
  readInstr (.bitZp b) (.zp b) bitTest s

/-- BIT ABS, 2C (3, 4) (R250). -/
def execBitAbs (w : Word) (s : State) : Host.Outcome State Fault Refusal :=
  readInstr (.bitAbs w) (.abs w) bitTest s

end Sys2Proof.Machine
end

