-- ==== Sys2Proof/Machine/ControlFlow.lean ====
section
/-! DEFINITION. Jumps, calls, returns, branches, BRK and RTI (spec/43_cpu_control_flow.md R310 to R323). -/

namespace Sys2Proof.Machine

open Sys2Proof

/-- RTS: one past the pulled address (R312). -/
def returnFromSubroutine (s : State) : State :=
  let r := pullWord s
  setPc (r.1 + 1) r.2

/-- BRK, with `PC` already past the opcode: the saved address skips one more byte, bit 4 of the pushed status byte is
set, and the handler's address is in the IRQ/BRK vector (R322). -/
def breakEntry (s : State) : State := enterHandler (s.cpu.pc + 1) true irqVector s

/-- JMP ABS, 4C (3, 3) (R310). -/
def execJmpAbs (w : Word) (s : State) : Host.Outcome State Fault Refusal :=
  .next (retire (cpuCycles (.jmpAbs w) false false) (setPc w (skip 3 s)))

/-- JMP IND, 6C (3, 5) (R310). -/
def execJmpInd (w : Word) (s : State) : Host.Outcome State Fault Refusal :=
  let r := indirectTarget w (skip 3 s)
  .next (retire (cpuCycles (.jmpInd w) false false) (setPc r.1 r.2))

/-- JSR ABS, 20 (3, 6) (R311). -/
def execJsr (w : Word) (s : State) : Host.Outcome State Fault Refusal :=
  let t := skip 3 s
  .next (retire (cpuCycles (.jsr w) false false) (setPc w (pushWord (t.cpu.pc - 1) t)))

/-- RTS IMP, 60 (1, 6) (R312). -/
def execRts (s : State) : Host.Outcome State Fault Refusal :=
  impliedInstr .rts returnFromSubroutine s

/-- BCC REL, 90 (2, 2/3/4) (R314). -/
def execBcc (b : Byte) (s : State) : Host.Outcome State Fault Refusal :=
  branchInstr (.bcc b) (!s.cpu.p.c) b s

/-- BCS REL, B0 (2, 2/3/4) (R315). -/
def execBcs (b : Byte) (s : State) : Host.Outcome State Fault Refusal :=
  branchInstr (.bcs b) (s.cpu.p.c) b s

/-- BEQ REL, F0 (2, 2/3/4) (R316). -/
def execBeq (b : Byte) (s : State) : Host.Outcome State Fault Refusal :=
  branchInstr (.beq b) (s.cpu.p.z) b s

/-- BNE REL, D0 (2, 2/3/4) (R317). -/
def execBne (b : Byte) (s : State) : Host.Outcome State Fault Refusal :=
  branchInstr (.bne b) (!s.cpu.p.z) b s

/-- BMI REL, 30 (2, 2/3/4) (R318). -/
def execBmi (b : Byte) (s : State) : Host.Outcome State Fault Refusal :=
  branchInstr (.bmi b) (s.cpu.p.n) b s

/-- BPL REL, 10 (2, 2/3/4) (R319). -/
def execBpl (b : Byte) (s : State) : Host.Outcome State Fault Refusal :=
  branchInstr (.bpl b) (!s.cpu.p.n) b s

/-- BVC REL, 50 (2, 2/3/4) (R320). -/
def execBvc (b : Byte) (s : State) : Host.Outcome State Fault Refusal :=
  branchInstr (.bvc b) (!s.cpu.p.v) b s

/-- BVS REL, 70 (2, 2/3/4) (R321). -/
def execBvs (b : Byte) (s : State) : Host.Outcome State Fault Refusal :=
  branchInstr (.bvs b) (s.cpu.p.v) b s

/-- BRK IMP, 00 (1, 7) (R322). -/
def execBrk (s : State) : Host.Outcome State Fault Refusal :=
  impliedInstr .brk breakEntry s

/-- RTI IMP, 40 (1, 6) (R323). -/
def execRti (s : State) : Host.Outcome State Fault Refusal :=
  impliedInstr .rti returnFromInterrupt s

end Sys2Proof.Machine
end

