-- ==== Sys2Proof/Machine/FlagsStack.lean ====
section
/-! DEFINITION. Flag operations, stack operations and NOP (spec/44_cpu_flags_stack_nop.md R350 to R361). -/

namespace Sys2Proof.Machine

open Sys2Proof

/-- CLC (R350). -/
def clearCarry (s : State) : State := setP { s.cpu.p with c := false } s

/-- SEC (R351). -/
def setCarry (s : State) : State := setP { s.cpu.p with c := true } s

/-- CLI (R352). -/
def clearInterruptDisable (s : State) : State := setP { s.cpu.p with i := false } s

/-- SEI (R353). -/
def setInterruptDisable (s : State) : State := setP { s.cpu.p with i := true } s

/-- CLD (R354). -/
def clearDecimal (s : State) : State := setP { s.cpu.p with d := false } s

/-- SED (R355). -/
def setDecimal (s : State) : State := setP { s.cpu.p with d := true } s

/-- CLV (R356). -/
def clearOverflow (s : State) : State := setP { s.cpu.p with v := false } s

/-- PHA (R357). -/
def pushA (s : State) : State := push s.cpu.a s

/-- PHP: bits 5 and 4 of the pushed byte are set (R358). -/
def pushP (s : State) : State := push (pByte true s.cpu.p) s

/-- PLA (R359). -/
def pullA (s : State) : State :=
  let r := pull s
  setP (setNZ r.1 r.2.cpu.p) (setA r.1 r.2)

/-- PLP (R360). -/
def pullP (s : State) : State :=
  let r := pull s
  setP (flagsOfByte r.1) r.2

/-- NOP (R361). -/
def noOperation (s : State) : State := s

/-- CLC IMP, 18 (1, 2) (R350). -/
def execClc (s : State) : Host.Outcome State Fault Refusal :=
  impliedInstr .clc clearCarry s

/-- SEC IMP, 38 (1, 2) (R351). -/
def execSec (s : State) : Host.Outcome State Fault Refusal :=
  impliedInstr .sec setCarry s

/-- CLI IMP, 58 (1, 2) (R352). -/
def execCli (s : State) : Host.Outcome State Fault Refusal :=
  impliedInstr .cli clearInterruptDisable s

/-- SEI IMP, 78 (1, 2) (R353). -/
def execSei (s : State) : Host.Outcome State Fault Refusal :=
  impliedInstr .sei setInterruptDisable s

/-- CLD IMP, D8 (1, 2) (R354). -/
def execCld (s : State) : Host.Outcome State Fault Refusal :=
  impliedInstr .cld clearDecimal s

/-- SED IMP, F8 (1, 2) (R355). -/
def execSed (s : State) : Host.Outcome State Fault Refusal :=
  impliedInstr .sed setDecimal s

/-- CLV IMP, B8 (1, 2) (R356). -/
def execClv (s : State) : Host.Outcome State Fault Refusal :=
  impliedInstr .clv clearOverflow s

/-- PHA IMP, 48 (1, 3) (R357). -/
def execPha (s : State) : Host.Outcome State Fault Refusal :=
  impliedInstr .pha pushA s

/-- PHP IMP, 08 (1, 3) (R358). -/
def execPhp (s : State) : Host.Outcome State Fault Refusal :=
  impliedInstr .php pushP s

/-- PLA IMP, 68 (1, 4) (R359). -/
def execPla (s : State) : Host.Outcome State Fault Refusal :=
  impliedInstr .pla pullA s

/-- PLP IMP, 28 (1, 4) (R360). -/
def execPlp (s : State) : Host.Outcome State Fault Refusal :=
  impliedInstr .plp pullP s

/-- NOP IMP, EA (1, 2) (R361). -/
def execNop (s : State) : Host.Outcome State Fault Refusal :=
  impliedInstr .nop noOperation s

end Sys2Proof.Machine
end

