-- ==== Sys2Proof/Machine/LoadStore.lean ====
section
/-! DEFINITION. Loads, stores and register transfers (spec/40_cpu_load_store_transfer.md R200 to R211). -/

namespace Sys2Proof.Machine

open Sys2Proof

/-- `A <- m; SetNZ(A)` (R200). -/
def loadA (m : Byte) (s : State) : State := setP (setNZ m s.cpu.p) (setA m s)

/-- `X <- m; SetNZ(X)` (R201). -/
def loadX (m : Byte) (s : State) : State := setP (setNZ m s.cpu.p) (setX m s)

/-- `Y <- m; SetNZ(Y)` (R202). -/
def loadY (m : Byte) (s : State) : State := setP (setNZ m s.cpu.p) (setY m s)

/-- TAX (R206). -/
def transferAX (s : State) : State := loadX s.cpu.a s

/-- TAY (R207). -/
def transferAY (s : State) : State := loadY s.cpu.a s

/-- TXA (R208). -/
def transferXA (s : State) : State := loadA s.cpu.x s

/-- TYA (R209). -/
def transferYA (s : State) : State := loadA s.cpu.y s

/-- TSX (R210). -/
def transferSX (s : State) : State := loadX s.cpu.s s

/-- TXS: no flags (R211). -/
def transferXS (s : State) : State := setS s.cpu.x s

/-- LDA IMM, A9 (2, 2) (R200). -/
def execLdaImm (b : Byte) (s : State) : Host.Outcome State Fault Refusal :=
  immediateInstr (.ldaImm b) b loadA s

/-- LDA ZP, A5 (2, 3) (R200). -/
def execLdaZp (b : Byte) (s : State) : Host.Outcome State Fault Refusal :=
  readInstr (.ldaZp b) (.zp b) loadA s

/-- LDA ZPX, B5 (2, 4) (R200). -/
def execLdaZpx (b : Byte) (s : State) : Host.Outcome State Fault Refusal :=
  readInstr (.ldaZpx b) (.zpx b) loadA s

/-- LDA ABS, AD (3, 4) (R200). -/
def execLdaAbs (w : Word) (s : State) : Host.Outcome State Fault Refusal :=
  readInstr (.ldaAbs w) (.abs w) loadA s

/-- LDA ABSX, BD (3, 4+p) (R200). -/
def execLdaAbsx (w : Word) (s : State) : Host.Outcome State Fault Refusal :=
  readInstr (.ldaAbsx w) (.absx w) loadA s

/-- LDA ABSY, B9 (3, 4+p) (R200). -/
def execLdaAbsy (w : Word) (s : State) : Host.Outcome State Fault Refusal :=
  readInstr (.ldaAbsy w) (.absy w) loadA s

/-- LDA INDX, A1 (2, 6) (R200). -/
def execLdaIndx (b : Byte) (s : State) : Host.Outcome State Fault Refusal :=
  readInstr (.ldaIndx b) (.indx b) loadA s

/-- LDA INDY, B1 (2, 5+p) (R200). -/
def execLdaIndy (b : Byte) (s : State) : Host.Outcome State Fault Refusal :=
  readInstr (.ldaIndy b) (.indy b) loadA s

/-- LDX IMM, A2 (2, 2) (R201). -/
def execLdxImm (b : Byte) (s : State) : Host.Outcome State Fault Refusal :=
  immediateInstr (.ldxImm b) b loadX s

/-- LDX ZP, A6 (2, 3) (R201). -/
def execLdxZp (b : Byte) (s : State) : Host.Outcome State Fault Refusal :=
  readInstr (.ldxZp b) (.zp b) loadX s

/-- LDX ZPY, B6 (2, 4) (R201). -/
def execLdxZpy (b : Byte) (s : State) : Host.Outcome State Fault Refusal :=
  readInstr (.ldxZpy b) (.zpy b) loadX s

/-- LDX ABS, AE (3, 4) (R201). -/
def execLdxAbs (w : Word) (s : State) : Host.Outcome State Fault Refusal :=
  readInstr (.ldxAbs w) (.abs w) loadX s

/-- LDX ABSY, BE (3, 4+p) (R201). -/
def execLdxAbsy (w : Word) (s : State) : Host.Outcome State Fault Refusal :=
  readInstr (.ldxAbsy w) (.absy w) loadX s

/-- LDY IMM, A0 (2, 2) (R202). -/
def execLdyImm (b : Byte) (s : State) : Host.Outcome State Fault Refusal :=
  immediateInstr (.ldyImm b) b loadY s

/-- LDY ZP, A4 (2, 3) (R202). -/
def execLdyZp (b : Byte) (s : State) : Host.Outcome State Fault Refusal :=
  readInstr (.ldyZp b) (.zp b) loadY s

/-- LDY ZPX, B4 (2, 4) (R202). -/
def execLdyZpx (b : Byte) (s : State) : Host.Outcome State Fault Refusal :=
  readInstr (.ldyZpx b) (.zpx b) loadY s

/-- LDY ABS, AC (3, 4) (R202). -/
def execLdyAbs (w : Word) (s : State) : Host.Outcome State Fault Refusal :=
  readInstr (.ldyAbs w) (.abs w) loadY s

/-- LDY ABSX, BC (3, 4+p) (R202). -/
def execLdyAbsx (w : Word) (s : State) : Host.Outcome State Fault Refusal :=
  readInstr (.ldyAbsx w) (.absx w) loadY s

/-- STA ZP, 85 (2, 3) (R203). -/
def execStaZp (b : Byte) (s : State) : Host.Outcome State Fault Refusal :=
  writeInstr (.staZp b) (.zp b) (fun r => r.a) s

/-- STA ZPX, 95 (2, 4) (R203). -/
def execStaZpx (b : Byte) (s : State) : Host.Outcome State Fault Refusal :=
  writeInstr (.staZpx b) (.zpx b) (fun r => r.a) s

/-- STA ABS, 8D (3, 4) (R203). -/
def execStaAbs (w : Word) (s : State) : Host.Outcome State Fault Refusal :=
  writeInstr (.staAbs w) (.abs w) (fun r => r.a) s

/-- STA ABSX, 9D (3, 5) (R203). -/
def execStaAbsx (w : Word) (s : State) : Host.Outcome State Fault Refusal :=
  writeInstr (.staAbsx w) (.absx w) (fun r => r.a) s

/-- STA ABSY, 99 (3, 5) (R203). -/
def execStaAbsy (w : Word) (s : State) : Host.Outcome State Fault Refusal :=
  writeInstr (.staAbsy w) (.absy w) (fun r => r.a) s

/-- STA INDX, 81 (2, 6) (R203). -/
def execStaIndx (b : Byte) (s : State) : Host.Outcome State Fault Refusal :=
  writeInstr (.staIndx b) (.indx b) (fun r => r.a) s

/-- STA INDY, 91 (2, 6) (R203). -/
def execStaIndy (b : Byte) (s : State) : Host.Outcome State Fault Refusal :=
  writeInstr (.staIndy b) (.indy b) (fun r => r.a) s

/-- STX ZP, 86 (2, 3) (R204). -/
def execStxZp (b : Byte) (s : State) : Host.Outcome State Fault Refusal :=
  writeInstr (.stxZp b) (.zp b) (fun r => r.x) s

/-- STX ZPY, 96 (2, 4) (R204). -/
def execStxZpy (b : Byte) (s : State) : Host.Outcome State Fault Refusal :=
  writeInstr (.stxZpy b) (.zpy b) (fun r => r.x) s

/-- STX ABS, 8E (3, 4) (R204). -/
def execStxAbs (w : Word) (s : State) : Host.Outcome State Fault Refusal :=
  writeInstr (.stxAbs w) (.abs w) (fun r => r.x) s

/-- STY ZP, 84 (2, 3) (R205). -/
def execStyZp (b : Byte) (s : State) : Host.Outcome State Fault Refusal :=
  writeInstr (.styZp b) (.zp b) (fun r => r.y) s

/-- STY ZPX, 94 (2, 4) (R205). -/
def execStyZpx (b : Byte) (s : State) : Host.Outcome State Fault Refusal :=
  writeInstr (.styZpx b) (.zpx b) (fun r => r.y) s

/-- STY ABS, 8C (3, 4) (R205). -/
def execStyAbs (w : Word) (s : State) : Host.Outcome State Fault Refusal :=
  writeInstr (.styAbs w) (.abs w) (fun r => r.y) s

/-- TAX IMP, AA (1, 2) (R206). -/
def execTax (s : State) : Host.Outcome State Fault Refusal :=
  impliedInstr .tax transferAX s

/-- TAY IMP, A8 (1, 2) (R207). -/
def execTay (s : State) : Host.Outcome State Fault Refusal :=
  impliedInstr .tay transferAY s

/-- TXA IMP, 8A (1, 2) (R208). -/
def execTxa (s : State) : Host.Outcome State Fault Refusal :=
  impliedInstr .txa transferXA s

/-- TYA IMP, 98 (1, 2) (R209). -/
def execTya (s : State) : Host.Outcome State Fault Refusal :=
  impliedInstr .tya transferYA s

/-- TSX IMP, BA (1, 2) (R210). -/
def execTsx (s : State) : Host.Outcome State Fault Refusal :=
  impliedInstr .tsx transferSX s

/-- TXS IMP, 9A (1, 2) (R211). -/
def execTxs (s : State) : Host.Outcome State Fault Refusal :=
  impliedInstr .txs transferXS s

end Sys2Proof.Machine
end

