-- ==== Sys2Proof/Machine/ShiftIncDec.lean ====
section
/-! DEFINITION. Shifts, rotates, increments and decrements (spec/42_cpu_shift_incdec.md R280 to R289). The memory forms are
read-modify-write over the flag computations of Machine/Flags.lean. -/

namespace Sys2Proof.Machine

open Sys2Proof

/-- INX (R286). -/
def incrementX (s : State) : State :=
  let r := incOp s.cpu.x s.cpu.p
  setP r.2 (setX r.1 s)

/-- INY (R287). -/
def incrementY (s : State) : State :=
  let r := incOp s.cpu.y s.cpu.p
  setP r.2 (setY r.1 s)

/-- DEX (R288). -/
def decrementX (s : State) : State :=
  let r := decOp s.cpu.x s.cpu.p
  setP r.2 (setX r.1 s)

/-- DEY (R289). -/
def decrementY (s : State) : State :=
  let r := decOp s.cpu.y s.cpu.p
  setP r.2 (setY r.1 s)

/-- ASL ACC, 0A (1, 2) (R280). -/
def execAslAcc (s : State) : Host.Outcome State Fault Refusal :=
  accumulatorInstr .aslAcc aslOp s

/-- ASL ZP, 06 (2, 5) (R280). -/
def execAslZp (b : Byte) (s : State) : Host.Outcome State Fault Refusal :=
  modifyInstr (.aslZp b) (.zp b) aslOp s

/-- ASL ZPX, 16 (2, 6) (R280). -/
def execAslZpx (b : Byte) (s : State) : Host.Outcome State Fault Refusal :=
  modifyInstr (.aslZpx b) (.zpx b) aslOp s

/-- ASL ABS, 0E (3, 6) (R280). -/
def execAslAbs (w : Word) (s : State) : Host.Outcome State Fault Refusal :=
  modifyInstr (.aslAbs w) (.abs w) aslOp s

/-- ASL ABSX, 1E (3, 7) (R280). -/
def execAslAbsx (w : Word) (s : State) : Host.Outcome State Fault Refusal :=
  modifyInstr (.aslAbsx w) (.absx w) aslOp s

/-- LSR ACC, 4A (1, 2) (R281). -/
def execLsrAcc (s : State) : Host.Outcome State Fault Refusal :=
  accumulatorInstr .lsrAcc lsrOp s

/-- LSR ZP, 46 (2, 5) (R281). -/
def execLsrZp (b : Byte) (s : State) : Host.Outcome State Fault Refusal :=
  modifyInstr (.lsrZp b) (.zp b) lsrOp s

/-- LSR ZPX, 56 (2, 6) (R281). -/
def execLsrZpx (b : Byte) (s : State) : Host.Outcome State Fault Refusal :=
  modifyInstr (.lsrZpx b) (.zpx b) lsrOp s

/-- LSR ABS, 4E (3, 6) (R281). -/
def execLsrAbs (w : Word) (s : State) : Host.Outcome State Fault Refusal :=
  modifyInstr (.lsrAbs w) (.abs w) lsrOp s

/-- LSR ABSX, 5E (3, 7) (R281). -/
def execLsrAbsx (w : Word) (s : State) : Host.Outcome State Fault Refusal :=
  modifyInstr (.lsrAbsx w) (.absx w) lsrOp s

/-- ROL ACC, 2A (1, 2) (R282). -/
def execRolAcc (s : State) : Host.Outcome State Fault Refusal :=
  accumulatorInstr .rolAcc rolOp s

/-- ROL ZP, 26 (2, 5) (R282). -/
def execRolZp (b : Byte) (s : State) : Host.Outcome State Fault Refusal :=
  modifyInstr (.rolZp b) (.zp b) rolOp s

/-- ROL ZPX, 36 (2, 6) (R282). -/
def execRolZpx (b : Byte) (s : State) : Host.Outcome State Fault Refusal :=
  modifyInstr (.rolZpx b) (.zpx b) rolOp s

/-- ROL ABS, 2E (3, 6) (R282). -/
def execRolAbs (w : Word) (s : State) : Host.Outcome State Fault Refusal :=
  modifyInstr (.rolAbs w) (.abs w) rolOp s

/-- ROL ABSX, 3E (3, 7) (R282). -/
def execRolAbsx (w : Word) (s : State) : Host.Outcome State Fault Refusal :=
  modifyInstr (.rolAbsx w) (.absx w) rolOp s

/-- ROR ACC, 6A (1, 2) (R283). -/
def execRorAcc (s : State) : Host.Outcome State Fault Refusal :=
  accumulatorInstr .rorAcc rorOp s

/-- ROR ZP, 66 (2, 5) (R283). -/
def execRorZp (b : Byte) (s : State) : Host.Outcome State Fault Refusal :=
  modifyInstr (.rorZp b) (.zp b) rorOp s

/-- ROR ZPX, 76 (2, 6) (R283). -/
def execRorZpx (b : Byte) (s : State) : Host.Outcome State Fault Refusal :=
  modifyInstr (.rorZpx b) (.zpx b) rorOp s

/-- ROR ABS, 6E (3, 6) (R283). -/
def execRorAbs (w : Word) (s : State) : Host.Outcome State Fault Refusal :=
  modifyInstr (.rorAbs w) (.abs w) rorOp s

/-- ROR ABSX, 7E (3, 7) (R283). -/
def execRorAbsx (w : Word) (s : State) : Host.Outcome State Fault Refusal :=
  modifyInstr (.rorAbsx w) (.absx w) rorOp s

/-- INC ZP, E6 (2, 5) (R284). -/
def execIncZp (b : Byte) (s : State) : Host.Outcome State Fault Refusal :=
  modifyInstr (.incZp b) (.zp b) incOp s

/-- INC ZPX, F6 (2, 6) (R284). -/
def execIncZpx (b : Byte) (s : State) : Host.Outcome State Fault Refusal :=
  modifyInstr (.incZpx b) (.zpx b) incOp s

/-- INC ABS, EE (3, 6) (R284). -/
def execIncAbs (w : Word) (s : State) : Host.Outcome State Fault Refusal :=
  modifyInstr (.incAbs w) (.abs w) incOp s

/-- INC ABSX, FE (3, 7) (R284). -/
def execIncAbsx (w : Word) (s : State) : Host.Outcome State Fault Refusal :=
  modifyInstr (.incAbsx w) (.absx w) incOp s

/-- DEC ZP, C6 (2, 5) (R285). -/
def execDecZp (b : Byte) (s : State) : Host.Outcome State Fault Refusal :=
  modifyInstr (.decZp b) (.zp b) decOp s

/-- DEC ZPX, D6 (2, 6) (R285). -/
def execDecZpx (b : Byte) (s : State) : Host.Outcome State Fault Refusal :=
  modifyInstr (.decZpx b) (.zpx b) decOp s

/-- DEC ABS, CE (3, 6) (R285). -/
def execDecAbs (w : Word) (s : State) : Host.Outcome State Fault Refusal :=
  modifyInstr (.decAbs w) (.abs w) decOp s

/-- DEC ABSX, DE (3, 7) (R285). -/
def execDecAbsx (w : Word) (s : State) : Host.Outcome State Fault Refusal :=
  modifyInstr (.decAbsx w) (.absx w) decOp s

/-- INX IMP, E8 (1, 2) (R286). -/
def execInx (s : State) : Host.Outcome State Fault Refusal :=
  impliedInstr .inx incrementX s

/-- INY IMP, C8 (1, 2) (R287). -/
def execIny (s : State) : Host.Outcome State Fault Refusal :=
  impliedInstr .iny incrementY s

/-- DEX IMP, CA (1, 2) (R288). -/
def execDex (s : State) : Host.Outcome State Fault Refusal :=
  impliedInstr .dex decrementX s

/-- DEY IMP, 88 (1, 2) (R289). -/
def execDey (s : State) : Host.Outcome State Fault Refusal :=
  impliedInstr .dey decrementY s

end Sys2Proof.Machine
end

