-- ==== Sys2Proof/Machine/Tick.lean ====
section
/-! DEFINITION. Fetching and running one instruction, the CPU tick, the dot-step (spec/45_cpu_core_glue.md R400, R401, R410 to
R412; spec/60_exceptions.md R703 to R709), and where an instruction may be placed for the next fetch. -/

namespace Sys2Proof.Machine

open Sys2Proof

/-- What a fetch found: the opcode byte, the instruction unless that byte is undocumented, the state after the fetch's
reads, `PC` still at the opcode. -/
structure Fetched where
  op : Byte
  instr : Option Instr
  st : State

/-- The fetch of one instruction: the opcode byte at `PC`, then the operand bytes at increasing addresses, each an
ordinary bus read with its side effects (R141, R401; n24). -/
def fetchInstr (s : State) : Fetched :=
  let op := rd s.cpu.pc s
  match opcodeShape op.1 with
  | none => { op := op.1, instr := none, st := op.2 }
  | some (.alone i) => { op := op.1, instr := some i, st := op.2 }
  | some (.withByte mk) =>
    let b := rd (s.cpu.pc + 1) op.2
    { op := op.1, instr := some (mk b.1), st := b.2 }
  | some (.withWord mk) =>
    let b1 := rd (s.cpu.pc + 1) op.2
    let b2 := rd (s.cpu.pc + 2) b1.2
    { op := op.1, instr := some (mk (pair b2.1 b1.1)), st := b2.2 }

/-- `ExecuteOne()` and the ticks it owes (R401, R400); an undocumented opcode is refused (R176). -/
def executeOne (s : State) : Host.Outcome State Fault Refusal :=
  let f := fetchInstr s
  match f.instr with
  | none => .refused (.illegalOpcode f.op)
  | some i => exec i f.st

/-- `CpuTick()`: the DMA halt, then the ticks owed, then NMI, then IRQ, then one instruction (R400, R707). -/
def cpuTick (s : State) : Host.Outcome State Fault Refusal :=
  if 0 < s.cpu.halt then .next (haltCpu (s.cpu.halt - 1) s)
  else if 0 < s.cpu.pending then .next (setPending (s.cpu.pending - 1) s)
  else if s.cpu.nmiPending then .next (retire interruptTicks (interruptEntry nmiVector (setNmiPending false s)))
  else if s.cpu.irqPending && !s.cpu.p.i then .next (retire interruptTicks (interruptEntry irqVector s))
  else executeOne s

/-- A dot-step up to its CPU tick: the audio producer's turn (n6), the PPU tick, the divider (R410). -/
def dotPrelude (s : State) : State :=
  let s := ppuTick (audioTurn s)
  { s with cpuDiv := if s.cpuDiv + 1 = 3 then 0 else s.cpuDiv + 1 }

/-- Does this dot-step tick the CPU (R410)? -/
def cpuTickDue (s : State) : Bool := s.cpuDiv + 1 == 3

/-- `DotStep()`, one step of the Machine (R410, R411). -/
def dotStep (s : State) : Host.Outcome State Fault Refusal :=
  if cpuTickDue s then cpuTick (dotPrelude s) else .next (dotPrelude s)

/-- `MachineStep(k)`: `k` dot-steps (R412). -/
def machineStep : Nat → State → Host.Outcome State Fault Refusal
  | 0, s => .next s
  | k + 1, s =>
    match dotStep s with
    | .next t => machineStep k t
    | .fault r => .fault r
    | .refused r => .refused r

/-- Does the storage behind this CPU-bus address hold bytes that a host can place: work RAM or program storage? -/
def storable (a : Word) : Bool := decide (a.toNat ≤ 0x1FFF) || decide (0x8000 ≤ a.toNat)

/-- A byte placed in the storage behind a CPU-bus address, from outside the machine. -/
def placeByte (a : Word) (v : Byte) (s : State) : State :=
  if a.toNat ≤ 0x1FFF then { s with ram := Mem.write s.ram (ramIndex a) v }
  else if a.toNat < 0x8000 then s
  else { s with cart := { s.cart with prg := Mem.write s.cart.prg (prgIndex s.cart.prgBanks s.mp a) v } }

/-- Bytes placed at increasing addresses. -/
def placeBytes : List Byte → Word → State → State
  | [], _, s => s
  | b :: bs, a, s => placeBytes bs (a + 1) (placeByte a b s)

/-- Where a placed instruction stands: at `PC`, or at 0x0000 where `PC` points at device registers (n16). -/
def placeAddr (s : State) : Word :=
  if storable s.cpu.pc && storable (s.cpu.pc + 1) && storable (s.cpu.pc + 2) then s.cpu.pc else 0x0000

/-- The state in which the next dot-step ticks the CPU, owes nothing, and has no interrupt to take (n16). -/
def readyToFetch (s : State) : State :=
  { s with
    cpuDiv := 2
    cpu :=
      { s.cpu with
        pc := placeAddr s, halt := 0, pending := 0, nmiPending := false, irqPending := s.cpu.irqPending && s.cpu.p.i }
    ppu := { s.ppu with ctrl := if nmiDue s.ppu then s.ppu.ctrl &&& 0x7F else s.ppu.ctrl } }

/-- `s` with an instruction's bytes placed where the next step fetches, and that step made to fetch (n15, n16). -/
def placeInstr (s : State) (code : List Byte) : State :=
  let s := readyToFetch s
  placeBytes code s.cpu.pc s

end Sys2Proof.Machine
end

