-- ==== Sys2Proof/Machine/Step.lean ====
section
/-! DEFINITION. One step of the machine is one dot-step (spec/45_cpu_core_glue.md R410; n15). -/

namespace Sys2Proof.Machine

open Sys2Proof

/-- One step: `DotStep()` (R410). -/
def step (s : State) : Host.Outcome State Fault Refusal := dotStep s

/-- `s` with an instruction of the opcode table, given by its bits, placed so that the very next step fetches and runs
it. -/
def State.withFetchWord (s : State) (nbits w : Nat) : State := placeInstr s (bytesOfTableWord nbits w)

end Sys2Proof.Machine
end

