-- ==== Sys2Proof/Machine/HostActions.lean ====
section
/-! DEFINITION. What the host does to the machine between steps: construction, machine reset, snapshot and restore
(spec/70_reset_and_hazards.md R750 to R753, R764, R765; spec/47_cartridge_mapper.md R480, R481). None of them is part of
`step` (n15). -/

namespace Sys2Proof.Machine

open Sys2Proof

/-- CPU `reset()`: the vector is read through the bus, then every register takes its reset value (R402). -/
def cpuReset (s : State) : State :=
  let r := rd16 resetVector s
  { r.2 with cpu := Cpu.reset r.1 }

/-- `MachineReset()`: mapper, simple peripherals, PPU, APU, divider, and the CPU last; `ram`, `chr` and `prg` keep what
they hold (R750). -/
def machineReset (s : State) : State :=
  cpuReset
    { s with
      mp := Mapper.reset s.cart.prgBanks
      ctrlShift := 0
      hc := HostCall.reset
      ppu := Ppu.reset
      apu := Apu.reset
      cpuDiv := 0 }

/-- The cartridge built from program data and no graphics data: two 8 KB banks of zero bytes (R33, R480, D21). -/
def cartridgeOfPrg (banks : Nat) (prg : Mem) : Cartridge := { prgBanks := banks, prg := prg, chrSize := 16384, chr := [] }

/-- Are these the buffers that the excluded loader hands over: at least one program bank, graphics data whose length is
a positive multiple of 8192 or 0 (`CHR_INIT` empty), bytes in canonical form and inside their buffers (R480)? -/
def cartridgeValid (c : Cartridge) : Bool :=
  decide (1 ≤ c.prgBanks) && c.chrSize % 8192 == 0
    && Mem.wf c.prg && Mem.below (c.prgBanks * 16384) c.prg && Mem.wf c.chr && Mem.below c.chrSize c.chr

/-- The cartridge built from the loader's buffers: an empty `CHR_INIT` gives the default graphics array (R480). -/
def buildCartridge (c : Cartridge) : Cartridge := if c.chrSize = 0 then cartridgeOfPrg c.prgBanks c.prg else c

/-- `MachineNew(PRG, CHR_INIT, MAPPER_ID, RAM_INIT, ...)`: no machine for an unsupported mapper identifier (R481), a
refusal for buffers the loader would not hand over (n26), else the reset machine (R751). -/
def machineNew (mapper : Nat) (cart : Cartridge) (ramInit : Mem) : Host.Outcome State Fault Refusal :=
  if mapper ≠ mapperId then .fault .unsupportedMapper
  else if cartridgeValid cart && Mem.wf ramInit && Mem.below 2048 ramInit then
    .next (machineReset { State.reset with cart := buildCartridge cart, ram := ramInit })
  else .refused .invalidCartridge

/-- A save state: its format version and the whole architectural state (R764; n23). -/
structure Saved where
  version : Nat
  state : State
  deriving DecidableEq, Repr

/-- `Snapshot(m)` (R764). -/
def snapshot (version : Nat) (s : State) : Saved := { version := version, state := s }

/-- `Restore(m, s)`: the whole saved state, in the running machine's cartridge program storage, or nothing (R764, R765).
The count of free values drawn is the environment's and stays (n23). -/
def restore (minVersion : Nat) (running : State) (saved : Saved) : Host.Outcome State Fault Refusal :=
  if saved.version < minVersion then .fault .snapshotTooOld
  else
    .next
      { saved.state with
        cart := { saved.state.cart with prgBanks := running.cart.prgBanks, prg := running.cart.prg }
        draws := running.draws }

end Sys2Proof.Machine
end

