-- ==== Sys2Proof/Safety.lean ====
section
/-! DEFINITION. What a legal state is, which accesses keep which bytes, and what a safe run is. The bounds are those the spec
states for each field (spec/10_state.md R20 to R44). -/

namespace Sys2Proof.Safety

open Sys2Proof Sys2Proof.Machine

/-- Every byte storage is in canonical form, inside the size the spec gives it (R30, R33, R37; n25). -/
structure StoragesLegal (s : State) : Prop where
  canonical : Memory.wf s = true
  ramSize : Mem.below 2048 s.ram = true
  prgSize : Mem.below (s.cart.prgBanks * 16384) s.cart.prg = true
  chrSize : Mem.below s.cart.chrSize s.cart.chr = true
  ntSize : Mem.below 2048 s.ppu.nt = true
  oamSize : Mem.below 256 s.ppu.oam = true
  palSize : Mem.below 32 s.ppu.pal = true

/-- The cartridge's sizes: at least one program bank, graphics storage a positive multiple of 8192 (R33, R480). -/
structure CartridgeLegal (c : Cartridge) : Prop where
  banks : 1 ≤ c.prgBanks
  chrPositive : 0 < c.chrSize
  chrMultiple : c.chrSize % 8192 = 0

/-- The CPU's counters and its IRQ line (R25, R26, R27, R706). -/
structure CpuLegal (c : Cpu) : Prop where
  pending : c.pending ≤ 6
  halt : c.halt ≤ 514
  noIrq : c.irqPending = false

/-- The host-call bridge between two instructions: no callback is running, and a call being collected still lacks an
argument (R32, R447 to R449). -/
structure BridgeLegal (h : HostCall) : Prop where
  notInCall : h.phase ≠ .inCall
  got : h.got ≤ 4
  incomplete : h.phase = .collecting → h.got < hostDeclared h.id

/-- The mapper's write counter, and the width of `prg_second` (R34): 5 bits, unless it is the last bank's number. -/
structure MapperLegal (banks : Nat) (m : Mapper) : Prop where
  serial : m.wc ≤ 4
  second : m.prgSecond < 32 ∨ m.prgSecond + 1 = banks

/-- The position counters and the status register (R35, R38, R548, R550). -/
structure PpuLegal (p : Ppu) : Prop where
  scanline : p.scanline < 262
  dot : p.dot < lineWidth p
  statusLow : p.status &&& 0x1F = 0

/-- A pulse channel (R40). -/
structure PulseLegal (ch : Pulse) : Prop where
  envDiv : ch.envDiv ≤ 15
  phaseLow : 0 ≤ ch.phase
  phaseHigh : ch.phase < 1

/-- The APU's ranges; the noise register is never all zero (R40, R41, R42, R44, R646). -/
structure ApuLegal (u : Apu) : Prop where
  p1 : PulseLegal u.p1
  p2 : PulseLegal u.p2
  triLow : 0 ≤ u.tri.phase
  triHigh : u.tri.phase < 32
  noiseDiv : u.noi.envDiv ≤ 15
  noiseLow : 0 ≤ u.noi.phase
  noiseHigh : u.noi.phase < 1
  lfsr : u.noi.lfsr ≠ 0
  accLow : 0 ≤ u.fs.acc
  accHigh : u.fs.acc < 1

/-- A legal state of the machine between two dot-steps: every field in the range the spec gives it. -/
structure Legal (s : State) : Prop where
  storages : StoragesLegal s
  cart : CartridgeLegal s.cart
  cpu : CpuLegal s.cpu
  divider : s.cpuDiv ≤ 2
  bridge : BridgeLegal s.hc
  mapper : MapperLegal s.cart.prgBanks s.mp
  ppu : PpuLegal s.ppu
  apu : ApuLegal s.apu

/-- No byte of the six storages reads otherwise in `t` than in `s`. -/
structure BytesKept (s t : State) : Prop where
  ram : ∀ k, Mem.read t.ram k = Mem.read s.ram k
  prg : ∀ k, Mem.read t.cart.prg k = Mem.read s.cart.prg k
  chr : ∀ k, Mem.read t.cart.chr k = Mem.read s.cart.chr k
  nt : ∀ k, Mem.read t.ppu.nt k = Mem.read s.ppu.nt k
  oam : ∀ k, Mem.read t.ppu.oam k = Mem.read s.ppu.oam k
  pal : ∀ k, Mem.read t.ppu.pal k = Mem.read s.ppu.pal k

/-- What CPU-bus reads can change at most: the controller's shift register, three PPU fields, and, where the audio
producer takes a turn, APU state and the count of free values (R442, R524, R530, R602). -/
structure ReadKeeps (s t : State) : Prop where
  cpu : t.cpu = s.cpu
  cpuDiv : t.cpuDiv = s.cpuDiv
  ram : t.ram = s.ram
  hc : t.hc = s.hc
  cart : t.cart = s.cart
  mp : t.mp = s.mp
  ppu : t.ppu = { s.ppu with status := t.ppu.status, w := t.ppu.w, addr := t.ppu.addr }

/-- Is `a` a mirror of PPU register number `n` (R520)? -/
def ppuPort (n : Nat) (a : Word) : Prop := 0x2000 ≤ a.toNat ∧ a.toNat ≤ 0x3FFF ∧ a.toNat % 8 = n

/-- What one CPU-bus write to `a` leaves as it was: every byte of work RAM but the one `a` names, unless `a` is the
host-call port, whose callback may write work RAM; every byte of OAM unless `a` is the DMA port or OAMDATA; every byte
of the PPU bus's storages unless `a` is PPUDATA; every byte of program storage (R431, R452, R482, R527, R531, R534). -/
structure StoreKeeps (a : Word) (s t : State) : Prop where
  ram : isHostcallPort a = false → ∀ k, (a.toNat ≤ 0x1FFF → k ≠ a.toNat % 0x0800) →
    Mem.read t.ram k = Mem.read s.ram k
  oam : a ≠ dmaPort → ¬ ppuPort 4 a → ∀ k, Mem.read t.ppu.oam k = Mem.read s.ppu.oam k
  nt : ¬ ppuPort 7 a → ∀ k, Mem.read t.ppu.nt k = Mem.read s.ppu.nt k
  pal : ¬ ppuPort 7 a → ∀ k, Mem.read t.ppu.pal k = Mem.read s.ppu.pal k
  chr : ¬ ppuPort 7 a → ∀ k, Mem.read t.cart.chr k = Mem.read s.cart.chr k
  prg : ∀ k, Mem.read t.cart.prg k = Mem.read s.cart.prg k

/-- A step is safe: it answers a next state, and that state is legal. -/
def SafeStep (s : State) : Prop := ∃ t, step s = .next t ∧ Legal t

/-- `n` dot-steps from `s` answer next states, all legal. -/
def SafeRun : Nat → State → Prop
  | 0, s => Legal s
  | n + 1, s => Legal s ∧ ∃ t, step s = .next t ∧ SafeRun n t

end Sys2Proof.Safety
end

