-- ==== Sys2Proof/Certificates/Slice0/Obligations.lean ====
section
/-! DEFINITION. The statements for the provers, each formalising rules of spec/ (R<n>), over the vocabulary of Safety.lean and
the small vocabulary of this file. No statement is about a program. -/

namespace Sys2Proof.Claims

open Sys2Proof Sys2Proof.Machine Sys2Proof.Safety

/-- One cell of a rule's encoding list: opcode, instruction, cycles, and whether a crossed page costs one more. -/
structure Row where
  op : Byte
  instr : Instr
  ticks : Nat
  plus : Bool
  deriving DecidableEq, Repr

/-- The operand bytes after the opcode, in the order they are fetched (R141). -/
def modeBytes : Mode → List Byte
  | .zp b | .zpx b | .zpy b | .indx b | .indy b => [b]
  | .abs w | .absx w | .absy w => [lo w, hi w]

/-- LDA in its memory modes (R200). -/
def ldaRow : Mode → Option Row
  | .zp b => some ⟨0xA5, .ldaZp b, 3, false⟩
  | .zpx b => some ⟨0xB5, .ldaZpx b, 4, false⟩
  | .abs w => some ⟨0xAD, .ldaAbs w, 4, false⟩
  | .absx w => some ⟨0xBD, .ldaAbsx w, 4, true⟩
  | .absy w => some ⟨0xB9, .ldaAbsy w, 4, true⟩
  | .indx b => some ⟨0xA1, .ldaIndx b, 6, false⟩
  | .indy b => some ⟨0xB1, .ldaIndy b, 5, true⟩
  | _ => none

/-- LDX in its memory modes (R201). -/
def ldxRow : Mode → Option Row
  | .zp b => some ⟨0xA6, .ldxZp b, 3, false⟩
  | .zpy b => some ⟨0xB6, .ldxZpy b, 4, false⟩
  | .abs w => some ⟨0xAE, .ldxAbs w, 4, false⟩
  | .absy w => some ⟨0xBE, .ldxAbsy w, 4, true⟩
  | _ => none

/-- LDY in its memory modes (R202). -/
def ldyRow : Mode → Option Row
  | .zp b => some ⟨0xA4, .ldyZp b, 3, false⟩
  | .zpx b => some ⟨0xB4, .ldyZpx b, 4, false⟩
  | .abs w => some ⟨0xAC, .ldyAbs w, 4, false⟩
  | .absx w => some ⟨0xBC, .ldyAbsx w, 4, true⟩
  | _ => none

/-- STA in its memory modes (R203). -/
def staRow : Mode → Option Row
  | .zp b => some ⟨0x85, .staZp b, 3, false⟩
  | .zpx b => some ⟨0x95, .staZpx b, 4, false⟩
  | .abs w => some ⟨0x8D, .staAbs w, 4, false⟩
  | .absx w => some ⟨0x9D, .staAbsx w, 5, false⟩
  | .absy w => some ⟨0x99, .staAbsy w, 5, false⟩
  | .indx b => some ⟨0x81, .staIndx b, 6, false⟩
  | .indy b => some ⟨0x91, .staIndy b, 6, false⟩
  | _ => none

/-- STX in its memory modes (R204). -/
def stxRow : Mode → Option Row
  | .zp b => some ⟨0x86, .stxZp b, 3, false⟩
  | .zpy b => some ⟨0x96, .stxZpy b, 4, false⟩
  | .abs w => some ⟨0x8E, .stxAbs w, 4, false⟩
  | _ => none

/-- STY in its memory modes (R205). -/
def styRow : Mode → Option Row
  | .zp b => some ⟨0x84, .styZp b, 3, false⟩
  | .zpx b => some ⟨0x94, .styZpx b, 4, false⟩
  | .abs w => some ⟨0x8C, .styAbs w, 4, false⟩
  | _ => none

/-- ADC in its memory modes (R241). -/
def adcRow : Mode → Option Row
  | .zp b => some ⟨0x65, .adcZp b, 3, false⟩
  | .zpx b => some ⟨0x75, .adcZpx b, 4, false⟩
  | .abs w => some ⟨0x6D, .adcAbs w, 4, false⟩
  | .absx w => some ⟨0x7D, .adcAbsx w, 4, true⟩
  | .absy w => some ⟨0x79, .adcAbsy w, 4, true⟩
  | .indx b => some ⟨0x61, .adcIndx b, 6, false⟩
  | .indy b => some ⟨0x71, .adcIndy b, 5, true⟩
  | _ => none

/-- SBC in its memory modes (R243). -/
def sbcRow : Mode → Option Row
  | .zp b => some ⟨0xE5, .sbcZp b, 3, false⟩
  | .zpx b => some ⟨0xF5, .sbcZpx b, 4, false⟩
  | .abs w => some ⟨0xED, .sbcAbs w, 4, false⟩
  | .absx w => some ⟨0xFD, .sbcAbsx w, 4, true⟩
  | .absy w => some ⟨0xF9, .sbcAbsy w, 4, true⟩
  | .indx b => some ⟨0xE1, .sbcIndx b, 6, false⟩
  | .indy b => some ⟨0xF1, .sbcIndy b, 5, true⟩
  | _ => none

/-- AND in its memory modes (R244). -/
def andRow : Mode → Option Row
  | .zp b => some ⟨0x25, .andZp b, 3, false⟩
  | .zpx b => some ⟨0x35, .andZpx b, 4, false⟩
  | .abs w => some ⟨0x2D, .andAbs w, 4, false⟩
  | .absx w => some ⟨0x3D, .andAbsx w, 4, true⟩
  | .absy w => some ⟨0x39, .andAbsy w, 4, true⟩
  | .indx b => some ⟨0x21, .andIndx b, 6, false⟩
  | .indy b => some ⟨0x31, .andIndy b, 5, true⟩
  | _ => none

/-- ORA in its memory modes (R245). -/
def oraRow : Mode → Option Row
  | .zp b => some ⟨0x05, .oraZp b, 3, false⟩
  | .zpx b => some ⟨0x15, .oraZpx b, 4, false⟩
  | .abs w => some ⟨0x0D, .oraAbs w, 4, false⟩
  | .absx w => some ⟨0x1D, .oraAbsx w, 4, true⟩
  | .absy w => some ⟨0x19, .oraAbsy w, 4, true⟩
  | .indx b => some ⟨0x01, .oraIndx b, 6, false⟩
  | .indy b => some ⟨0x11, .oraIndy b, 5, true⟩
  | _ => none

/-- EOR in its memory modes (R246). -/
def eorRow : Mode → Option Row
  | .zp b => some ⟨0x45, .eorZp b, 3, false⟩
  | .zpx b => some ⟨0x55, .eorZpx b, 4, false⟩
  | .abs w => some ⟨0x4D, .eorAbs w, 4, false⟩
  | .absx w => some ⟨0x5D, .eorAbsx w, 4, true⟩
  | .absy w => some ⟨0x59, .eorAbsy w, 4, true⟩
  | .indx b => some ⟨0x41, .eorIndx b, 6, false⟩
  | .indy b => some ⟨0x51, .eorIndy b, 5, true⟩
  | _ => none

/-- CMP in its memory modes (R247). -/
def cmpRow : Mode → Option Row
  | .zp b => some ⟨0xC5, .cmpZp b, 3, false⟩
  | .zpx b => some ⟨0xD5, .cmpZpx b, 4, false⟩
  | .abs w => some ⟨0xCD, .cmpAbs w, 4, false⟩
  | .absx w => some ⟨0xDD, .cmpAbsx w, 4, true⟩
  | .absy w => some ⟨0xD9, .cmpAbsy w, 4, true⟩
  | .indx b => some ⟨0xC1, .cmpIndx b, 6, false⟩
  | .indy b => some ⟨0xD1, .cmpIndy b, 5, true⟩
  | _ => none

/-- CPX in its memory modes (R248). -/
def cpxRow : Mode → Option Row
  | .zp b => some ⟨0xE4, .cpxZp b, 3, false⟩
  | .abs w => some ⟨0xEC, .cpxAbs w, 4, false⟩
  | _ => none

/-- CPY in its memory modes (R249). -/
def cpyRow : Mode → Option Row
  | .zp b => some ⟨0xC4, .cpyZp b, 3, false⟩
  | .abs w => some ⟨0xCC, .cpyAbs w, 4, false⟩
  | _ => none

/-- BIT in its memory modes (R250). -/
def bitRow : Mode → Option Row
  | .zp b => some ⟨0x24, .bitZp b, 3, false⟩
  | .abs w => some ⟨0x2C, .bitAbs w, 4, false⟩
  | _ => none

/-- ASL in its memory modes (R280). -/
def aslRow : Mode → Option Row
  | .zp b => some ⟨0x06, .aslZp b, 5, false⟩
  | .zpx b => some ⟨0x16, .aslZpx b, 6, false⟩
  | .abs w => some ⟨0x0E, .aslAbs w, 6, false⟩
  | .absx w => some ⟨0x1E, .aslAbsx w, 7, false⟩
  | _ => none

/-- LSR in its memory modes (R281). -/
def lsrRow : Mode → Option Row
  | .zp b => some ⟨0x46, .lsrZp b, 5, false⟩
  | .zpx b => some ⟨0x56, .lsrZpx b, 6, false⟩
  | .abs w => some ⟨0x4E, .lsrAbs w, 6, false⟩
  | .absx w => some ⟨0x5E, .lsrAbsx w, 7, false⟩
  | _ => none

/-- ROL in its memory modes (R282). -/
def rolRow : Mode → Option Row
  | .zp b => some ⟨0x26, .rolZp b, 5, false⟩
  | .zpx b => some ⟨0x36, .rolZpx b, 6, false⟩
  | .abs w => some ⟨0x2E, .rolAbs w, 6, false⟩
  | .absx w => some ⟨0x3E, .rolAbsx w, 7, false⟩
  | _ => none

/-- ROR in its memory modes (R283). -/
def rorRow : Mode → Option Row
  | .zp b => some ⟨0x66, .rorZp b, 5, false⟩
  | .zpx b => some ⟨0x76, .rorZpx b, 6, false⟩
  | .abs w => some ⟨0x6E, .rorAbs w, 6, false⟩
  | .absx w => some ⟨0x7E, .rorAbsx w, 7, false⟩
  | _ => none

/-- INC in its memory modes (R284). -/
def incRow : Mode → Option Row
  | .zp b => some ⟨0xE6, .incZp b, 5, false⟩
  | .zpx b => some ⟨0xF6, .incZpx b, 6, false⟩
  | .abs w => some ⟨0xEE, .incAbs w, 6, false⟩
  | .absx w => some ⟨0xFE, .incAbsx w, 7, false⟩
  | _ => none

/-- DEC in its memory modes (R285). -/
def decRow : Mode → Option Row
  | .zp b => some ⟨0xC6, .decZp b, 5, false⟩
  | .zpx b => some ⟨0xD6, .decZpx b, 6, false⟩
  | .abs w => some ⟨0xCE, .decAbs w, 6, false⟩
  | .absx w => some ⟨0xDE, .decAbsx w, 7, false⟩
  | _ => none

/-- `SetNZ(v)` (R7): N is bit 7 of `v`, Z says that `v` is zero, the other flags stay. -/
def nz (v : Byte) (p : Status) : Status := { p with n := v.getLsbD 7, z := decide (v = 0) }

/-- Where the next instruction stands (R22). -/
def after (m : Mode) (c : Cpu) : Word := c.pc + BitVec.ofNat 16 (1 + (modeBytes m).length)

/-- A *read* instruction in every mode of its row: its encoding, and on every state a next state in which the CPU is
`f m` of the CPU before, `PC` is past the instruction and its ticks less one are owed, everything else is as the mode's
and the operand's bus reads left it, and no byte of memory has changed (R161, R400). -/
def ReadsAs (row : Mode → Option Row) (f : Byte → Cpu → Cpu) : Prop :=
  ∀ (m : Mode) (r : Row) (s : State), row m = some r →
    let o := readOperand m (skip (modeLength m) s)
    encode r.instr = r.op :: modeBytes m ∧
    exec r.instr s =
      .next
        { o.st with
          cpu :=
            { f o.value s.cpu with
              pc := after m s.cpu, pending := r.ticks + (if r.plus && o.cross then 1 else 0) - 1 } } ∧
    BytesKept s o.st

/-- The immediate form of a *read* instruction (R149): two bytes, two cycles, and nothing but the CPU changes. -/
def ImmediateAs (op : Byte) (mk : Byte → Instr) (f : Byte → Cpu → Cpu) : Prop :=
  ∀ (b : Byte) (s : State),
    encode (mk b) = [op, b] ∧
    exec (mk b) s = .next { s with cpu := { f b s.cpu with pc := s.cpu.pc + 2, pending := 1 } }

/-- A one-byte, two-cycle instruction that acts on the CPU's registers alone (R147). -/
def RegistersAs (op : Byte) (i : Instr) (f : Cpu → Cpu) : Prop :=
  ∀ s : State,
    encode i = [op] ∧ exec i s = .next { s with cpu := { f s.cpu with pc := s.cpu.pc + 1, pending := 1 } }

/-- A *write* instruction in every mode of its row: one write of the register `v` at the effective address, no flag, no
register but `PC` and the ticks owed, and no byte but those the write may change; in work RAM the byte reads back
(R161, R110, R400). -/
def WritesAs (row : Mode → Option Row) (v : Cpu → Byte) : Prop :=
  ∀ (m : Mode) (r : Row) (s : State), row m = some r →
    let e := effAddr m (skip (modeLength m) s)
    let t := wr e.addr (v s.cpu) e.st
    let u :=
      { t with cpu := { s.cpu with pc := after m s.cpu, pending := r.ticks - 1, halt := t.cpu.halt } }
    encode r.instr = r.op :: modeBytes m ∧
    exec r.instr s = .next u ∧
    (e.addr ≠ dmaPort → u.cpu.halt = s.cpu.halt) ∧
    StoreKeeps e.addr s u ∧
    (e.addr.toNat ≤ 0x1FFF → Mem.wf s.ram = true → Mem.read u.ram (e.addr.toNat % 0x0800) = v s.cpu)

/-- A *read-modify-write* instruction in every mode of its row: one read, one write of the result at the same address,
the result's flags (R161, R110, R400). -/
def ModifiesAs (row : Mode → Option Row) (g : Byte → Status → Byte × Status) : Prop :=
  ∀ (m : Mode) (r : Row) (s : State), row m = some r →
    let e := effAddr m (skip (modeLength m) s)
    let o := rd e.addr e.st
    let x := g o.1 s.cpu.p
    let t := wr e.addr x.1 o.2
    let u :=
      { t with
        cpu := { s.cpu with p := x.2, pc := after m s.cpu, pending := r.ticks - 1, halt := t.cpu.halt } }
    encode r.instr = r.op :: modeBytes m ∧
    exec r.instr s = .next u ∧
    (e.addr ≠ dmaPort → u.cpu.halt = s.cpu.halt) ∧
    StoreKeeps e.addr s u ∧
    (e.addr.toNat ≤ 0x1FFF → Mem.wf s.ram = true →
      Mem.read u.ram (e.addr.toNat % 0x0800) = (g (Mem.read s.ram (e.addr.toNat % 0x0800)) s.cpu.p).1)

/-- The accumulator form of a shift or rotate (R148). -/
def AccumulatorAs (op : Byte) (i : Instr) (g : Byte → Status → Byte × Status) : Prop :=
  RegistersAs op i fun c => { c with a := (g c.a c.p).1, p := (g c.a c.p).2 }

/-- A conditional branch (R313): target and page by R159; 2, 3 or 4 cycles. -/
def BranchesAs (op : Byte) (mk : Byte → Instr) (cond : Status → Bool) : Prop :=
  ∀ (b : Byte) (s : State),
    let next := s.cpu.pc + 2
    let target := next + BitVec.ofInt 16 b.toInt
    encode (mk b) = [op, b] ∧
    exec (mk b) s =
      .next
        { s with
          cpu :=
            { s.cpu with
              pc := if cond s.cpu.p then target else next
              pending :=
                if cond s.cpu.p then (if target.toNat / 256 = next.toNat / 256 then 2 else 3) else 1 } }

/-- The sum behind ADC: two bytes and a carry. -/
def carrySum (a m : Byte) (c : Bool) : Nat := a.toNat + m.toNat + (if c then 1 else 0)

/-- ADC on the CPU's registers, by exact arithmetic (R241): the sum modulo 256, C the carry out of bit 7, V the signed
sum out of range. -/
def adds (m : Byte) (c : Cpu) : Cpu :=
  let sum := carrySum c.a m c.p.c
  let signed := c.a.toInt + m.toInt + (if c.p.c then 1 else 0)
  { c with
    a := BitVec.ofNat 8 sum
    p :=
      nz (BitVec.ofNat 8 sum)
        { c.p with c := decide (256 ≤ sum), v := decide (signed < -128 ∨ 127 < signed) } }

/-- SBC on the CPU's registers, by exact arithmetic (R243): the difference modulo 256, C no borrow, V the signed
difference out of range. -/
def subtracts (m : Byte) (c : Cpu) : Cpu :=
  let borrow : Int := if c.p.c then 0 else 1
  let diff := (c.a.toNat : Int) - m.toNat - borrow
  let signed := c.a.toInt - m.toInt - borrow
  { c with
    a := BitVec.ofInt 8 diff
    p :=
      nz (BitVec.ofInt 8 diff)
        { c.p with c := decide (0 ≤ diff), v := decide (signed < -128 ∨ 127 < signed) } }

/-- A result for the accumulator with its flags (R244 to R246). -/
def intoA (r : Byte) (c : Cpu) : Cpu := { c with a := r, p := nz r c.p }

/-- The flags of a compare of register value `r` with `m` (R247 to R249). -/
def compares (r m : Byte) (c : Cpu) : Cpu :=
  { c with
    p :=
      { c.p with
        n := (BitVec.ofInt 8 ((r.toNat : Int) - m.toNat)).getLsbD 7
        z := decide (r = m)
        c := decide (m.toNat ≤ r.toNat) } }

/-- ASL (R280). -/
def shiftLeft (m : Byte) (p : Status) : Byte × Status :=
  (BitVec.ofNat 8 (m.toNat * 2), nz (BitVec.ofNat 8 (m.toNat * 2)) { p with c := decide (128 ≤ m.toNat) })

/-- LSR (R281). -/
def shiftRight (m : Byte) (p : Status) : Byte × Status :=
  (BitVec.ofNat 8 (m.toNat / 2), nz (BitVec.ofNat 8 (m.toNat / 2)) { p with c := decide (m.toNat % 2 = 1) })

/-- ROL (R282). -/
def rotateLeft (m : Byte) (p : Status) : Byte × Status :=
  let r := BitVec.ofNat 8 (m.toNat * 2 + (if p.c then 1 else 0))
  (r, nz r { p with c := decide (128 ≤ m.toNat) })

/-- ROR (R283). -/
def rotateRight (m : Byte) (p : Status) : Byte × Status :=
  let r := BitVec.ofNat 8 (m.toNat / 2 + (if p.c then 128 else 0))
  (r, nz r { p with c := decide (m.toNat % 2 = 1) })

/-- INC (R284). -/
def increments (m : Byte) (p : Status) : Byte × Status :=
  (BitVec.ofNat 8 (m.toNat + 1), nz (BitVec.ofNat 8 (m.toNat + 1)) p)

/-- DEC (R285). -/
def decrements (m : Byte) (p : Status) : Byte × Status :=
  (BitVec.ofNat 8 (m.toNat + 255), nz (BitVec.ofNat 8 (m.toNat + 255)) p)

/-- The work-RAM index of stack slot `sp` (R21). -/
def slot (sp : Byte) : Nat := 256 + sp.toNat

/-- The CPU-bus byte at `a`, where `a` lies in program storage (R500, R503), written out. -/
def programByte (s : State) (a : Word) : Byte :=
  if s.mp.ctrl.getLsbD 3 then
    Mem.read s.cart.prg
      ((if a.toNat < 0xC000 then s.mp.prgFirst.toNat else s.mp.prgSecond) % s.cart.prgBanks * 16384
        + a.toNat % 0x4000)
  else Mem.read s.cart.prg ((s.mp.prgMerged.toNat * 32768 + a.toNat % 0x8000) % (s.cart.prgBanks * 16384))

/-- The state after the three pushes of a handler entry, with return address `ret` and status byte `pb`: `PCH`, `PCL`,
`P` in page 1, `S` down by 3, `I` set, `PC` from the vector at `vector` (R710, R322). -/
def entered (ret : Word) (pb : Byte) (vector : Word) (s : State) : State :=
  { s with
    ram :=
      Mem.write (Mem.write (Mem.write s.ram (slot s.cpu.s) (hi ret)) (slot (s.cpu.s - 1)) (lo ret))
        (slot (s.cpu.s - 2)) pb
    cpu :=
      { s.cpu with
        s := s.cpu.s - 3, p := { s.cpu.p with i := true }
        pc := programByte s (vector + 1) ++ programByte s vector, pending := 6 } }

/-- The status byte as R24 assembles it, by weight. -/
def statusByte (b : Bool) (p : Status) : Byte :=
  BitVec.ofNat 8
    ((if p.n then 128 else 0) + (if p.v then 64 else 0) + 32 + (if b then 16 else 0) + (if p.d then 8 else 0)
      + (if p.i then 4 else 0) + (if p.z then 2 else 0) + (if p.c then 1 else 0))

/-- The six flags a status byte loads, by weight (R24). -/
def flagsFrom (v : Byte) : Status :=
  { n := decide (128 ≤ v.toNat), v := decide (v.toNat / 64 % 2 = 1), d := decide (v.toNat / 8 % 2 = 1)
    i := decide (v.toNat / 4 % 2 = 1), z := decide (v.toNat / 2 % 2 = 1), c := decide (v.toNat % 2 = 1) }

/-- The two zero-page bytes at `p` and the next index of page 0, as an address (R156, R157). -/
def zeroPagePointer (s : State) (p : Byte) : Word :=
  Mem.read s.ram ((p.toNat + 1) % 256) ++ Mem.read s.ram p.toNat

/-- The state the next CPU tick sees when this dot-step reaches one with nothing owed and nothing to take: the divider
at 2, both counters 0, no NMI requested before or in this dot-step, no IRQ accepted (R400, R410). -/
structure InstructionDue (s : State) : Prop where
  divider : s.cpuDiv = 2
  halt : s.cpu.halt = 0
  pending : s.cpu.pending = 0
  noNmi : s.cpu.nmiPending = false
  noNmiNow : ¬ (s.ppu.scanline = 241 ∧ s.ppu.dot = 1 ∧ s.ppu.ctrl.getLsbD 7 = true)
  noIrq : s.cpu.irqPending = true → s.cpu.p.i = true

/-- Eight reads of the controller port: the bytes, in order (R442). -/
def eightReads (s : State) : List Byte × State :=
  (List.range 8).foldl (fun acc _ => (acc.1 ++ [(rd ctrlPort acc.2).1], (rd ctrlPort acc.2).2)) ([], s)

/-- Five CPU-bus writes in a row. -/
def fiveWrites (a : Fin 5 → Word) (v : Fin 5 → Byte) (s : State) : State :=
  wr (a 4) (v 4) (wr (a 3) (v 3) (wr (a 2) (v 2) (wr (a 1) (v 1) (wr (a 0) (v 0) s))))

/-- A pulse channel after a write of register `k` (R614 to R617). -/
def pulseSet (k : Fin 4) (v : Byte) (ch : Pulse) : Pulse :=
  let stored := { ch with reg := ch.reg.set k.val v k.isLt }
  if k.val = 0 then
    { stored with
      duty := BitVec.ofNat 2 (v.toNat / 64), loop := v.getLsbD 5, constVol := v.getLsbD 4
      vol := BitVec.ofNat 4 (v.toNat % 16) }
  else if k.val = 1 then stored
  else if k.val = 2 then { stored with timer := BitVec.ofNat 11 (ch.timer.toNat / 256 * 256 + v.toNat) }
  else
    { stored with
      timer := BitVec.ofNat 11 (v.toNat % 8 * 256 + ch.timer.toNat % 256)
      length := lenTable.getD (v.toNat / 8) 0
      phase := 0
      env := if ch.constVol then ch.env else 15
      envDiv := if ch.constVol then ch.envDiv else ch.vol.toNat }

/-- The triangle channel after a write of register `k` (R618 to R621). -/
def triangleSet (k : Fin 4) (v : Byte) (ch : Triangle) : Triangle :=
  let stored := { ch with reg := ch.reg.set k.val v k.isLt }
  if k.val = 0 then { stored with control := v.getLsbD 7, reloadValue := BitVec.ofNat 7 (v.toNat % 128) }
  else if k.val = 1 then stored
  else if k.val = 2 then { stored with timer := BitVec.ofNat 11 (ch.timer.toNat / 256 * 256 + v.toNat) }
  else
    { stored with
      timer := BitVec.ofNat 11 (v.toNat % 8 * 256 + ch.timer.toNat % 256)
      length := lenTable.getD (v.toNat / 8) 0
      reload := true }

/-- The noise channel after a write of register `k` (R622 to R625). -/
def noiseSet (k : Fin 4) (v : Byte) (ch : Noise) : Noise :=
  let stored := { ch with reg := ch.reg.set k.val v k.isLt }
  if k.val = 0 then
    { stored with loop := v.getLsbD 5, constVol := v.getLsbD 4, vol := BitVec.ofNat 4 (v.toNat % 16) }
  else if k.val = 1 then stored
  else if k.val = 2 then { stored with mode := v.getLsbD 7, periodIndex := BitVec.ofNat 4 (v.toNat % 16) }
  else
    { stored with
      length := lenTable.getD (v.toNat / 8) 0
      env := if ch.constVol then ch.env else 15
      envDiv := if ch.constVol then ch.envDiv else ch.vol.toNat }

/-- An envelope and its divider after a 240 Hz tick (R604). -/
def envelopeAfter (vol : BitVec 4) (loop : Bool) (env : BitVec 4) (div : Nat) : BitVec 4 × Nat :=
  if div = 0 then
    (if 0 < env.toNat then BitVec.ofNat 4 (env.toNat - 1) else if loop then 15 else 0, vol.toNat)
  else (env, div - 1)

/-- A length counter after a 120 Hz tick (R605). -/
def lengthAfter (halted : Bool) (l : Nat) : Nat := if halted = false ∧ 0 < l then l - 1 else l

/-- The first `n` bytes of the sprite DMA copied: each a CPU-bus read of the page, stored into OAM (R534). -/
def copied (page : Byte) : Nat → State → State
  | 0, s => s
  | n + 1, s =>
    let u := copied page n s
    let r := rd (page ++ BitVec.ofNat 8 n) u
    { r.2 with
      ppu := { r.2.ppu with oam := Mem.write r.2.ppu.oam ((s.ppu.oamaddr.toNat + n) % 256) r.1 } }

/-- The CPU after reset with program counter `pc` (R46). -/
def resetCpu (pc : Word) : Cpu :=
  { a := 0x00, x := 0x00, y := 0x00, s := 0xFD, pc := pc
    p := { n := false, v := false, d := false, i := true, z := false, c := false }
    pending := 0, nmiPending := false, irqPending := false, halt := 0 }

/-- The mapper after reset with `banks` program banks (R46, R34). -/
def resetMapper (banks : Nat) : Mapper :=
  { sr := 0b10000, wc := 0, ctrl := 0x0C, prgFirst := 0, prgSecond := banks - 1, prgMerged := 0, chrFirst := 0
    chrSecond := 0, chrMerged := 0 }

/-- The PPU after reset: every field 0, every memory zero (R46). -/
def resetPpu : Ppu :=
  { ctrl := 0x00, mask := 0x00, status := 0x00, oamaddr := 0x00, hscroll := 0x00, vscroll := 0x00, addr := 0x0000
    w := false, nt := [], oam := [], pal := [], dot := 0, scanline := 0, frame := 0, displayScroll := 0x00 }

/-- A pulse channel after reset: every field 0 (R46). -/
def resetPulse : Pulse :=
  { reg := #v[0, 0, 0, 0], duty := 0, loop := false, constVol := false, vol := 0, timer := 0, length := 0, env := 0
    envDiv := 0, phase := 0 }

/-- The APU after reset: every field 0 but the noise register, which is 1 (R46). -/
def resetApu : Apu :=
  { p1 := resetPulse
    p2 := resetPulse
    tri :=
      { reg := #v[0, 0, 0, 0], control := false, reloadValue := 0, timer := 0, length := 0, linear := 0
        reload := false, phase := 0 }
    noi :=
      { reg := #v[0, 0, 0, 0], loop := false, constVol := false, vol := 0, mode := false, periodIndex := 0, length := 0
        env := 0, envDiv := 0, lfsr := 1, phase := 0 }
    dmc := #v[0, 0, 0, 0]
    enable := 0
    fs := { acc := 0, n120 := false, n60 := false }
    filt := { s1 := 0, s2 := 0 } }

/-- One shift of the noise register, by arithmetic (R646). -/
def noiseShift (mode : Bool) (l : BitVec 15) : BitVec 15 :=
  BitVec.ofNat 15 (l.toNat / 2 + (if l.getLsbD 0 = l.getLsbD (if mode then 6 else 1) then 0 else 16384))

/-- The two mixer groups, the delta-modulation level being 0 (R660, R663). -/
def mixed (s1 s2 t n : Nat) : Rat :=
  (if s1 = 0 ∧ s2 = 0 then 0 else (9588 / 100) / (8128 / ((s1 : Rat) + s2) + 100))
    + (if t = 0 ∧ n = 0 then 0 else (15979 / 100) / (1 / ((t : Rat) / 8227 + (n : Rat) / 12241) + 100))

/-- The output filter: silence stays silence; otherwise the open function (R661). -/
def filtered (f : FilterState) (m rate : Rat) : Rat × FilterState :=
  if f = { s1 := 0, s2 := 0 } ∧ m = 0 then (0, { s1 := 0, s2 := 0 })
  else
    ((Config.apuFilter f.s1 f.s2 m rate).1,
      { s1 := (Config.apuFilter f.s1 f.s2 m rate).2.1, s2 := (Config.apuFilter f.s1 f.s2 m rate).2.2 })

end Sys2Proof.Claims

open Sys2Proof Sys2Proof.Machine Sys2Proof.Safety Sys2Proof.Claims

/-- Decoding the bytes of any instruction gives that instruction back, every operand bit included (30_encoding.md
R140, R141, R170). -/
def Obligations.EncodeThenDecode : Prop :=
  ∀ (i : Instr) (rest : List Byte), decode (encode i ++ rest) = some (i, rest)

/-- Whatever decodes is the encoding of the instruction it decodes to (30_encoding.md R140, R141, R176). -/
def Obligations.DecodedCodeIsTheEncoding : Prop :=
  ∀ (code : List Byte) (i : Instr) (rest : List Byte), decode code = some (i, rest) → code = encode i ++ rest

/-- Words written out bit by bit from the opcode map decode to the instructions they stand for (30_encoding.md R141,
R170). -/
def Obligations.OpcodeMapWords : Prop :=
  decode [0b10101001, 0b00000000] = some (.ldaImm 0x00, []) ∧
  decode [0b10011101, 0b00000000, 0b00000010] = some (.staAbsx 0x0200, []) ∧
  decode [0b01100101, 0b00010000] = some (.adcZp 0x10, []) ∧
  decode [0b00101100, 0b00000010, 0b00100000] = some (.bitAbs 0x2002, []) ∧
  decode [0b01001010] = some (.lsrAcc, []) ∧
  decode [0b01101100, 0b11111111, 0b00010010] = some (.jmpInd 0x12FF, []) ∧
  decode [0b11010000, 0b11111011] = some (.bne 0xFB, []) ∧
  decode [0b01001000] = some (.pha, [])

/-- Exactly the 105 undocumented opcode bytes decode to nothing, and executing one is refused by name (30_encoding.md
R176, R177, n17). That executing one is a refusal is the model's choice, the treatment of R176 (n17). -/
def Obligations.UndocumentedOpcodesRefused : Prop :=
  undocumentedOpcodes.length = 105 ∧
  (∀ (op : Byte) (rest : List Byte), op ∈ undocumentedOpcodes → decode (op :: rest) = none) ∧
  (∀ (op b1 b2 : Byte), op ∉ undocumentedOpcodes → (decode [op, b1, b2]).isSome = true) ∧
  ∀ s : State, (rd s.cpu.pc s).1 ∈ undocumentedOpcodes →
    executeOne s = .refused (.illegalOpcode (rd s.cpu.pc s).1)

/-- A step that reaches an instruction runs exec of the instruction its bus reads decode to (45_cpu_core_glue.md R401,
R410, 20_memory.md R123, n6, n24). -/
def Obligations.StepRunsTheDecodedInstruction : Prop :=
  ∀ (s : State) (i : Instr) (rest : List Byte), InstructionDue s →
    let u := dotPrelude s
    let r0 := rd u.cpu.pc u
    let r1 := rd (u.cpu.pc + 1) r0.2
    let r2 := rd (u.cpu.pc + 2) r1.2
    (decode [r0.1, r1.1, r2.1] = some (i, rest) →
      step s = exec i ([r0.2, r1.2, r2.2].getD ((encode i).length - 1) u)) ∧
    ((∀ k : Fin 3, (u.cpu.pc + BitVec.ofNat 16 k.val).toNat ≤ 0x1FFF ∨
        0x8000 ≤ (u.cpu.pc + BitVec.ofNat 16 k.val).toNat) →
      decode [peek u.cpu.pc u, peek (u.cpu.pc + 1) u, peek (u.cpu.pc + 2) u] = some (i, rest) →
      step s = exec i u)

/-- A dot-step ticks the PPU, counts the divider, and on every third one then ticks the CPU (R410). -/
def Obligations.DotStepOrder : Prop :=
  ∀ s : State,
    (s.cpuDiv < 2 →
      ∃ t, step s = .next t ∧ t.cpuDiv = s.cpuDiv + 1 ∧ t.ppu = (ppuTick s).ppu ∧ t.cpu = (ppuTick s).cpu ∧
        t.ram = s.ram ∧ t.hc = s.hc ∧ t.cart = s.cart ∧ t.mp = s.mp ∧ t.ctrlShift = s.ctrlShift) ∧
    (s.cpuDiv = 2 →
      ∃ u, step s = cpuTick u ∧ u.cpuDiv = 0 ∧ u.ppu = (ppuTick s).ppu ∧ u.cpu = (ppuTick s).cpu ∧
        u.ram = s.ram ∧ u.hc = s.hc ∧ u.cart = s.cart ∧ u.mp = s.mp ∧ u.ctrlShift = s.ctrlShift)

/-- A CPU tick drains the DMA halt, then the ticks owed, then takes NMI, then IRQ, then runs one instruction (R707,
R710). -/
def Obligations.CpuTickOrder : Prop :=
  ∀ s : State,
    (0 < s.cpu.halt → cpuTick s = .next { s with cpu := { s.cpu with halt := s.cpu.halt - 1 } }) ∧
    (s.cpu.halt = 0 → 0 < s.cpu.pending →
      cpuTick s = .next { s with cpu := { s.cpu with pending := s.cpu.pending - 1 } }) ∧
    (s.cpu.halt = 0 → s.cpu.pending = 0 → s.cpu.nmiPending = true →
      cpuTick s =
        .next
          (entered s.cpu.pc (statusByte false s.cpu.p) 0xFFFA
            { s with cpu := { s.cpu with nmiPending := false } })) ∧
    (s.cpu.halt = 0 → s.cpu.pending = 0 → s.cpu.nmiPending = false → s.cpu.irqPending = true →
      s.cpu.p.i = false →
      cpuTick s = .next (entered s.cpu.pc (statusByte false s.cpu.p) 0xFFFE s)) ∧
    (s.cpu.halt = 0 → s.cpu.pending = 0 → s.cpu.nmiPending = false →
      (s.cpu.irqPending = true → s.cpu.p.i = true) → cpuTick s = executeOne s)

/-- No step changes the IRQ line, which is clear at reset (60_exceptions.md R706, 10_state.md R26). -/
def Obligations.IrqLineNeverChanges : Prop :=
  State.reset.cpu.irqPending = false ∧
  ∀ s t : State, step s = .next t → t.cpu.irqPending = s.cpu.irqPending

/-- A step is refused exactly when it fetches an undocumented opcode byte, and names it; every other step answers a
next state (60_exceptions.md R700, R701, 30_encoding.md R176, 45_cpu_core_glue.md R400, R410, n17). -/
def Obligations.OnlyUndocumentedOpcodesStop : Prop :=
  ∀ s : State,
    let u := dotPrelude s
    let op := (rd u.cpu.pc u).1
    (InstructionDue s → op ∈ undocumentedOpcodes → step s = .refused (.illegalOpcode op)) ∧
    (¬ (InstructionDue s ∧ op ∈ undocumentedOpcodes) → ∃ t, step s = .next t)

/-- The state after reset: every row of R46, field by field (10_state.md R46, 70_reset_and_hazards.md R750,
47_cartridge_mapper.md R502, n1, n2). The blank cartridge, with it PC = 0x0000 and prg_second = 0, and work RAM all
zero are the model's choice (n1, n2). -/
def Obligations.ResetState : Prop :=
  State.reset =
      { cpu := resetCpu 0x0000
        cpuDiv := 0
        ram := []
        ctrlShift := 0x00
        hc := { phase := .idle, id := 0x00, args := #v[0, 0, 0, 0], got := 0, ret := 0x00 }
        cart := { prgBanks := 1, prg := [], chrSize := 16384, chr := [] }
        mp := resetMapper 1
        ppu := resetPpu
        apu := resetApu
        draws := State.reset.draws } ∧
    State.reset.cpu.pc =
      Mem.read State.reset.cart.prg (State.reset.cart.prgBanks * 16384 - 3) ++
        Mem.read State.reset.cart.prg (State.reset.cart.prgBanks * 16384 - 4) ∧
    ∀ k,
      Mem.read State.reset.ram k = 0x00 ∧ Mem.read State.reset.cart.prg k = 0x00 ∧
      Mem.read State.reset.cart.chr k = 0x00 ∧ Mem.read State.reset.ppu.nt k = 0x00 ∧
      Mem.read State.reset.ppu.oam k = 0x00 ∧ Mem.read State.reset.ppu.pal k = 0x00

/-- A machine reset assigns every register its reset value, reads PC from the last bank, and keeps the memories
(70_reset_and_hazards.md R750, 45_cpu_core_glue.md R402, 47_cartridge_mapper.md R502, n18). For more than 32 banks
that prg_second is not cut to R34's 5 bits is the model's choice (n18). -/
def Obligations.MachineResetEffect : Prop :=
  ∀ s : State, 1 ≤ s.cart.prgBanks →
    machineReset s =
      { s with
        mp := resetMapper s.cart.prgBanks
        ctrlShift := 0x00
        hc := { phase := .idle, id := 0x00, args := #v[0, 0, 0, 0], got := 0, ret := 0x00 }
        ppu := resetPpu
        apu := resetApu
        cpuDiv := 0
        cpu :=
          resetCpu
            (Mem.read s.cart.prg (s.cart.prgBanks * 16384 - 3) ++
              Mem.read s.cart.prg (s.cart.prgBanks * 16384 - 4)) }

/-- The state after reset is legal (10_state.md R46, n1, n2, n25). -/
def Obligations.LegalAtReset : Prop :=
  Legal State.reset

/-- Every step from a legal state that answers a next state answers a legal one (10_state.md R25, R26, R27, R28, R32,
R34, R35, R38, 48_ppu.md R548, 49_apu.md R646, n18, n25). -/
def Obligations.EveryStepKeepsLegal : Prop :=
  ∀ s t : State, Legal s → step s = .next t → Legal t

/-- Restoring a snapshot gives back the whole state; a snapshot that is too old changes nothing
(70_reset_and_hazards.md R764, R765, n23). -/
def Obligations.SnapshotRestoresTheMachine : Prop :=
  ∀ (v least : Nat) (m running : State),
    (least ≤ v → running.cart.prg = m.cart.prg → running.cart.prgBanks = m.cart.prgBanks →
      restore least running (snapshot v m) = .next { m with draws := running.draws }) ∧
    (v < least → restore least running (snapshot v m) = .fault .snapshotTooOld)

/-- Construction refuses an unsupported mapper identifier and otherwise gives the reset machine, empty graphics data
included (47_cartridge_mapper.md R480, R481, 70_reset_and_hazards.md R751, 10_state.md R33, n26). The refusal of
buffers that the loader would not hand over is the model's choice (n26). -/
def Obligations.MachineConstruction : Prop :=
  ∀ (mapper : Nat) (c : Cartridge) (ramInit : Mem),
    (mapper ≠ 1 → machineNew mapper c ramInit = .fault .unsupportedMapper) ∧
    (mapper = 1 → cartridgeValid c = true → Mem.wf ramInit = true → Mem.below 2048 ramInit = true →
      ∃ t, machineNew mapper c ramInit = .next t ∧ t = machineReset t ∧ Legal t ∧ t.ram = ramInit ∧
        t.cart.prgBanks = c.prgBanks ∧ t.cart.prg = c.prg ∧
        (c.chrSize ≠ 0 → t.cart.chrSize = c.chrSize ∧ t.cart.chr = c.chr) ∧
        (c.chrSize = 0 → t.cart.chrSize = 16384 ∧ ∀ k, Mem.read t.cart.chr k = 0x00)) ∧
    (mapper = 1 → ¬ (cartridgeValid c = true ∧ Mem.wf ramInit = true ∧ Mem.below 2048 ramInit = true) →
      machineNew mapper c ramInit = .refused .invalidCartridge)

/-- Reads of unmapped addresses give BUS_DEFAULT and change nothing; writes there do nothing (R98). -/
def Obligations.UnmappedAddresses : Prop :=
  ∀ (a : Word) (v : Byte) (s : State),
    (0x2000 ≤ a.toNat → a.toNat ≤ 0x3FFF → a.toNat % 8 ∈ [0, 1, 3, 5, 6] → rd a s = (busDefault, s)) ∧
    (0x4000 ≤ a.toNat → a.toNat ≤ 0x400F → rd a s = (busDefault, s)) ∧
    (a.toNat = 0x4014 → rd a s = (busDefault, s)) ∧
    (a.toNat = 0x4017 → rd a s = (busDefault, s)) ∧
    (0x4018 ≤ a.toNat → a.toNat ≤ 0x7FFF → a ≠ hostcallPort → rd a s = (busDefault, s) ∧ wr a v s = s)

/-- Work RAM is read and written at each of its four addresses (R430, R431). -/
def Obligations.WorkRamIsMirrored : Prop :=
  ∀ (a b : Word) (v : Byte) (s : State), a.toNat ≤ 0x1FFF →
    rd a s = (Mem.read s.ram (a.toNat % 2048), s) ∧
    wr a v s = { s with ram := Mem.write s.ram (a.toNat % 2048) v } ∧
    (∀ k, k ≠ a.toNat % 2048 → Mem.read (wr a v s).ram k = Mem.read s.ram k) ∧
    (Mem.wf s.ram = true → b.toNat ≤ 0x1FFF → b.toNat % 2048 = a.toNat % 2048 → (rd b (wr a v s)).1 = v)

/-- A read at or above 0x8000 gives the program byte the bank registers select, without side effect (R500, R503). -/
def Obligations.ProgramReadMapping : Prop :=
  ∀ (a : Word) (s : State), 0x8000 ≤ a.toNat → rd a s = (programByte s a, s)

/-- No bus write and no step changes program storage; a write at or above 0x8000 is mapper protocol only (R482). -/
def Obligations.ProgramStorageIsImmutable : Prop :=
  (∀ (a : Word) (v : Byte) (s : State) (k : Nat),
      Mem.read (wr a v s).cart.prg k = Mem.read s.cart.prg k ∧
      Mem.read (ppuBusWrite a v s).cart.prg k = Mem.read s.cart.prg k) ∧
    (∀ (a : Word) (v : Byte) (s : State), 0x8000 ≤ a.toNat → ∃ m, wr a v s = { s with mp := m }) ∧
    (∀ (a : Word) (v : Byte) (s : State), a.toNat < 0x2000 →
      ppuBusWrite a v s = { s with cart := { s.cart with chr := Mem.write s.cart.chr a.toNat v } }) ∧
    ∀ s t : State, step s = .next t →
      t.cart.prgBanks = s.cart.prgBanks ∧ ∀ k, Mem.read t.cart.prg k = Mem.read s.cart.prg k

/-- A CPU-bus read changes no byte of memory, no CPU register, no mapper register; most reads change nothing at all
(20_memory.md R111, 49_apu.md R602, n6). -/
def Obligations.ReadsKeepMemoryAndCpu : Prop :=
  ∀ (a : Word) (s : State),
    ReadKeeps s (rd a s).2 ∧ BytesKept s (rd a s).2 ∧
    (¬ ppuPort 2 a → ¬ ppuPort 7 a → a ≠ 0x4016 → ¬ (0x4010 ≤ a.toNat ∧ a.toNat ≤ 0x4013) → a ≠ 0x4015 →
      (rd a s).2 = s)

/-- A CPU-bus write changes only the bytes its address names, and no CPU register but halt (20_memory.md R95, R97,
45_cpu_core_glue.md R406). -/
def Obligations.WritesKeepOtherBytes : Prop :=
  ∀ (a : Word) (v : Byte) (s : State),
    StoreKeeps a s (wr a v s) ∧
    (wr a v s).cpu = { s.cpu with halt := (wr a v s).cpu.halt } ∧
    (a ≠ 0x4014 → (wr a v s).cpu = s.cpu)

/-- A strobe samples the buttons; eight reads return the shift register from bit 7 down and leave it zero
(46_bus_peripherals.md R440, R442, R443, n5). -/
def Obligations.ControllerPort : Prop :=
  ∀ (v : Byte) (s : State),
    (v.getLsbD 0 = true →
      wr 0x4016 v s = { s with ctrlShift := Config.buttons s.draws, draws := s.draws + 1 }) ∧
    (v.getLsbD 0 = false → wr 0x4016 v s = s) ∧
    rd 0x4016 s =
      (if s.ctrlShift.getLsbD 7 then 0x01 else 0x00,
        { s with ctrlShift := BitVec.ofNat 8 (s.ctrlShift.toNat * 2) }) ∧
    (eightReads s).1 = (List.range 8).map (fun k => if s.ctrlShift.getLsbD (7 - k) then 0x01 else 0x00) ∧
    (eightReads s).2 = { s with ctrlShift := 0x00 } ∧
    (s.ctrlShift = 0x00 → rd 0x4016 s = (0x00, s)) ∧
    State.reset.ctrlShift = 0x00 ∧
    (rd 0x4017 s).1 = busDefault

/-- The host-call port: call id, arguments, invocation, misuse, and the read of the last return value
(46_bus_peripherals.md R447, R448, R449, R450, R451, R452, n8, n21). That a callback is a function of its id, its
arguments and work RAM, confined to work RAM (R452, n8), and what a collection does for an unregistered id or a full
counter (n8, n21), are the model's choice. -/
def Obligations.HostCallProtocol : Prop :=
  ∀ (v : Byte) (s : State),
    let a1 := s.hc.args.setIfInBounds s.hc.got v
    let declared := ((Config.hostArity s.hc.id).map Fin.val).getD 0
    let answer := fun (id : Byte) (args : Vector Byte 4) =>
      Config.hostReturn id (args.get 0) (args.get 1) (args.get 2) (args.get 3) (Mem.bytes s.ram 2048)
    let after := fun (id : Byte) (args : Vector Byte 4) (k : Nat) =>
      Config.hostRam id (args.get 0) (args.get 1) (args.get 2) (args.get 3) (Mem.bytes s.ram 2048) k
    let t := wr hostcallPort v s
    rd hostcallPort s = (s.hc.ret, s) ∧
    { t with ram := s.ram, hc := s.hc } = s ∧
    (s.hc.phase = .inCall → t = s) ∧
    (s.hc.phase = .idle →
      if Config.hostArity v = none then t = s
      else if Config.hostArity v = some 0 then
        t.hc =
            { phase := .idle, id := v, args := #v[0, 0, 0, 0], got := 0, ret := answer v #v[0, 0, 0, 0] } ∧
          ∀ k, k < 2048 → Mem.read t.ram k = after v #v[0, 0, 0, 0] k
      else
        t.hc = { s.hc with phase := .collecting, id := v, args := #v[0, 0, 0, 0], got := 0 } ∧ t.ram = s.ram) ∧
    (s.hc.phase = .collecting →
      if s.hc.got + 1 = declared then
        t.hc =
            { s.hc with phase := .idle, args := a1, got := s.hc.got + 1, ret := answer s.hc.id a1 } ∧
          ∀ k, k < 2048 → Mem.read t.ram k = after s.hc.id a1 k
      else t.hc = { s.hc with args := a1, got := s.hc.got + 1 } ∧ t.ram = s.ram)

/-- Five data writes commit the value they spell to the register the fifth address selects; a reset write aborts
(47_cartridge_mapper.md R487, R488, R489, R493, R494, R495, n18). That prg_second holds PRG_BANKS - 1 whole for more
than 32 banks, where R34 gives it 5 bits, is the model's choice (n18). -/
def Obligations.MapperSerialProtocol : Prop :=
  (∀ (a : Fin 5 → Word) (v : Fin 5 → Byte) (s : State), s.mp.wc = 0 →
      (∀ j, 0x8000 ≤ (a j).toNat) → (∀ j, (v j).getLsbD 7 = false) →
      let val : BitVec 5 :=
        BitVec.ofNat 5
          ((v 0).toNat % 2 + 2 * ((v 1).toNat % 2) + 4 * ((v 2).toNat % 2) + 8 * ((v 3).toNat % 2)
            + 16 * ((v 4).toNat % 2))
      let half : BitVec 4 := BitVec.ofNat 4 (val.toNat / 2)
      let m := s.mp
      let banked : Mapper :=
        if (a 4).toNat < 0xA000 then { m with ctrl := val }
        else if (a 4).toNat < 0xC000 then
          if m.ctrl.getLsbD 4 then { m with chrFirst := val } else { m with chrMerged := half }
        else if (a 4).toNat < 0xE000 then { m with chrSecond := val }
        else if m.ctrl.getLsbD 3 = false then { m with prgMerged := half }
        else if m.ctrl.getLsbD 2 = false then { m with prgFirst := 0, prgSecond := val.toNat }
        else { m with prgFirst := val, prgSecond := s.cart.prgBanks - 1 }
      fiveWrites a v s = { s with mp := { banked with sr := 0b10000, wc := 0 } }) ∧
    (∀ (a : Word) (v : Byte) (s : State), 0x8000 ≤ a.toNat → v.getLsbD 7 = false → s.mp.wc < 4 →
      wr a v s =
        { s with
          mp := { s.mp with sr := BitVec.ofNat 5 (s.mp.sr.toNat / 2 + 16 * (v.toNat % 2)), wc := s.mp.wc + 1 } }) ∧
    ∀ (a : Word) (v : Byte) (s : State), 0x8000 ≤ a.toNat → v.getLsbD 7 = true →
      wr a v s = { s with mp := { s.mp with sr := 0b10000, wc := 0, ctrl := 0x0C } }

/-- Control and mask writes store the byte and nothing else; a status read returns the byte, then clears (R522, R523,
R524). -/
def Obligations.PpuControlMaskStatus : Prop :=
  ∀ (a : Word) (v : Byte) (s : State),
    (ppuPort 0 a → wr a v s = { s with ppu := { s.ppu with ctrl := v } }) ∧
    (ppuPort 1 a → wr a v s = { s with ppu := { s.ppu with mask := v } }) ∧
    (ppuPort 2 a →
      rd a s = (s.ppu.status, { s with ppu := { s.ppu with status := s.ppu.status &&& 0x1F, w := false } }) ∧
      wr a v s = s)

/-- The OAM address and data ports (R525, R526, R527). -/
def Obligations.PpuOamPort : Prop :=
  ∀ (a : Word) (v : Byte) (s : State),
    (ppuPort 3 a → wr a v s = { s with ppu := { s.ppu with oamaddr := v } }) ∧
    (ppuPort 4 a →
      rd a s = (Mem.read s.ppu.oam s.ppu.oamaddr.toNat, s) ∧
      wr a v s =
        { s with
          ppu :=
            { s.ppu with
              oam := Mem.write s.ppu.oam s.ppu.oamaddr.toNat v
              oamaddr := BitVec.ofNat 8 (s.ppu.oamaddr.toNat + 1) } } ∧
      (Mem.wf s.ppu.oam = true → Mem.read (wr a v s).ppu.oam s.ppu.oamaddr.toNat = v) ∧
      ∀ k, k ≠ s.ppu.oamaddr.toNat → Mem.read (wr a v s).ppu.oam k = Mem.read s.ppu.oam k)

/-- Scroll and address writes share one toggle: first write high or horizontal, second low or vertical (R528, R529).
-/
def Obligations.PpuScrollAndAddress : Prop :=
  ∀ (a : Word) (v : Byte) (s : State),
    (ppuPort 5 a → s.ppu.w = false → wr a v s = { s with ppu := { s.ppu with hscroll := v, w := true } }) ∧
    (ppuPort 5 a → s.ppu.w = true → wr a v s = { s with ppu := { s.ppu with vscroll := v, w := false } }) ∧
    (ppuPort 6 a → s.ppu.w = false →
      wr a v s =
        { s with
          ppu := { s.ppu with addr := BitVec.ofNat 16 (v.toNat * 256 + s.ppu.addr.toNat % 256), w := true } }) ∧
    (ppuPort 6 a → s.ppu.w = true →
      wr a v s =
        { s with
          ppu :=
            { s.ppu with addr := BitVec.ofNat 16 (s.ppu.addr.toNat / 256 * 256 + v.toNat), w := false } })

/-- The data port reads and writes the PPU bus at the latched address, then adds 1 or 32 (R530, R531, R532). -/
def Obligations.PpuDataPort : Prop :=
  ∀ (a : Word) (v : Byte) (s : State), ppuPort 7 a →
    let p : PpuAddr := BitVec.ofNat 14 s.ppu.addr.toNat
    let next : Word := BitVec.ofNat 16 (s.ppu.addr.toNat + (if s.ppu.ctrl.getLsbD 2 then 32 else 1))
    (rd a s).2 = { s with ppu := { s.ppu with addr := next } } ∧
    (p.toNat < 0x2000 →
      (rd a s).1 = Mem.read s.cart.chr p.toNat ∧
      wr a v s =
        { s with
          cart := { s.cart with chr := Mem.write s.cart.chr p.toNat v }, ppu := { s.ppu with addr := next } }) ∧
    (0x2000 ≤ p.toNat → p.toNat < 0x3F00 →
      (rd a s).1 = Mem.read s.ppu.nt (ntIndex s.mp p) ∧
      wr a v s = { s with ppu := { s.ppu with nt := Mem.write s.ppu.nt (ntIndex s.mp p) v, addr := next } }) ∧
    (0x3F00 ≤ p.toNat →
      (rd a s).1 = Mem.read s.ppu.pal (palIndex p) ∧
      wr a v s = { s with ppu := { s.ppu with pal := Mem.write s.ppu.pal (palIndex p) v, addr := next } })

/-- Four logical nametables fold onto two by the mirror field; four palette entries alias (20_memory.md R104, R105,
n29). The aliases hold because PALETTE_ALIAS is true, the spec's default (R5, D26; n29). -/
def Obligations.NametableAndPaletteFolds : Prop :=
  (∀ (m : Mapper) (a : PpuAddr), 0x2000 ≤ a.toNat → a.toNat ≤ 0x3EFF →
      ntIndex m a =
        (if m.ctrl.toNat % 4 = 0 then 0
          else if m.ctrl.toNat % 4 = 1 then 1
          else if m.ctrl.toNat % 4 = 2 then a.toNat / 1024 % 2
          else a.toNat / 2048 % 2) * 1024 + a.toNat % 1024) ∧
    ∀ a : PpuAddr,
      palIndex a =
          (if a.toNat % 32 ∈ [16, 20, 24, 28] then a.toNat % 32 - 16 else a.toNat % 32) ∧
        palIndex a ∉ [16, 20, 24, 28]

/-- A write to 0x4014 copies a page into OAM from the current OAM address on and halts the CPU 513 or 514 ticks (R534,
R406). -/
def Obligations.SpriteDma : Prop :=
  ∀ (page : Byte) (s : State),
    let t := wr 0x4014 page s
    (t.cpu.halt = 513 ∨ t.cpu.halt = 514) ∧
    t = { copied page 256 s with cpu := { s.cpu with halt := t.cpu.halt }, draws := t.draws } ∧
    t.ppu.oamaddr = s.ppu.oamaddr ∧
    (page.toNat ≤ 0x1F → Mem.wf s.ppu.oam = true →
      { t with cpu := s.cpu, ppu := { t.ppu with oam := s.ppu.oam }, draws := s.draws } = s ∧
      ∀ k, k < 256 →
        Mem.read t.ppu.oam ((s.ppu.oamaddr.toNat + k) % 256) =
          Mem.read s.ram ((page.toNat * 256 + k) % 2048))

/-- What a PPU tick does at each position: pre-render clears, sprite-zero-hit, vblank and NMI, OAM address resets
(R541, R542, R543, R544, R545, R546). -/
def Obligations.PpuTickEvents : Prop :=
  ∀ s : State,
    let p := s.ppu
    let t := ppuTick s
    t.ppu.status =
      (if p.scanline = 261 ∧ p.dot = 1 then p.status &&& 0x3F
        else if p.scanline = spr0HitScanline ∧ p.dot = spr0HitDot then p.status ||| 0x40
        else if p.scanline = 241 ∧ p.dot = 1 then p.status ||| 0x80
        else p.status) ∧
    t.ppu.oamaddr =
      (if (p.scanline = 261 ∧ (p.dot = 257 ∨ p.dot = 320)) ∨ (p.scanline ≤ 239 ∧ p.dot = 257) then 0x00
        else p.oamaddr) ∧
    t.ppu.displayScroll = (if p.scanline = 241 ∧ p.dot = 1 then p.hscroll else p.displayScroll) ∧
    (t.cpu.nmiPending = true ↔
      s.cpu.nmiPending = true ∨ (p.scanline = 241 ∧ p.dot = 1 ∧ p.ctrl.getLsbD 7 = true)) ∧
    { t with
      ppu :=
        { t.ppu with
          status := p.status, oamaddr := p.oamaddr, displayScroll := p.displayScroll, dot := p.dot
          scanline := p.scanline, frame := p.frame }
      cpu := { t.cpu with nmiPending := s.cpu.nmiPending } } = s

/-- The dot counter wraps at 341, at 340 on the pre-render line of an odd frame; the scanline counter at 262 (R548,
R550). -/
def Obligations.PpuPositionAdvances : Prop :=
  ∀ s : State,
    let p := s.ppu
    let t := (ppuTick s).ppu
    let width := if p.scanline = 261 ∧ p.frame % 2 = 1 then 340 else 341
    (p.dot + 1 ≠ width → t.dot = p.dot + 1 ∧ t.scanline = p.scanline ∧ t.frame = p.frame) ∧
    (p.dot + 1 = width → p.scanline + 1 ≠ 262 →
      t.dot = 0 ∧ t.scanline = p.scanline + 1 ∧ t.frame = p.frame) ∧
    (p.dot + 1 = width → p.scanline + 1 = 262 → t.dot = 0 ∧ t.scanline = 0 ∧ t.frame = p.frame + 1)

/-- A frame takes exactly 89,342 PPU ticks when even and 89,341 when odd (48_ppu.md R548, R550, R551). -/
def Obligations.FrameLength : Prop :=
  ∀ s : State, s.ppu.dot = 0 → s.ppu.scanline = 0 →
    let n := if s.ppu.frame % 2 = 0 then 89342 else 89341
    (times ppuTick n s).ppu.dot = 0 ∧ (times ppuTick n s).ppu.scanline = 0 ∧
    (times ppuTick n s).ppu.frame = s.ppu.frame + 1 ∧
    (∀ k, 0 < k → k < n → ¬ ((times ppuTick k s).ppu.dot = 0 ∧ (times ppuTick k s).ppu.scanline = 0)) ∧
    (times ppuTick 178683 s).ppu.frame = s.ppu.frame + 2 ∧ (times ppuTick 178683 s).ppu.dot = 0 ∧
    (times ppuTick 178683 s).ppu.scanline = 0 ∧ 178683 = 3 * 59561

/-- The four register writes of the two pulse channels (49_apu.md R614, R615, R616, R617, R628, n6). That the audio
producer may take a turn before the write is the model's choice of where its steps fall (n6). -/
def Obligations.PulseRegisterWrites : Prop :=
  ∀ (k : Fin 4) (v : Byte) (s : State),
    let u := audioTurn s
    wr (0x4000 + BitVec.ofNat 16 k.val) v s = { u with apu := { u.apu with p1 := pulseSet k v u.apu.p1 } } ∧
    wr (0x4004 + BitVec.ofNat 16 k.val) v s = { u with apu := { u.apu with p2 := pulseSet k v u.apu.p2 } }

/-- The register writes of the triangle, noise and delta-modulation channels (49_apu.md R618, R619, R620, R621, R622,
R623, R624, R625, R626, n6). That the audio producer may take a turn before the write is the model's choice of where
its steps fall (n6). -/
def Obligations.TriangleNoiseDmcWrites : Prop :=
  ∀ (k : Fin 4) (v : Byte) (s : State),
    let u := audioTurn s
    wr (0x4008 + BitVec.ofNat 16 k.val) v s = { u with apu := { u.apu with tri := triangleSet k v u.apu.tri } } ∧
    wr (0x400C + BitVec.ofNat 16 k.val) v s = { u with apu := { u.apu with noi := noiseSet k v u.apu.noi } } ∧
    wr (0x4010 + BitVec.ofNat 16 k.val) v s =
      { u with apu := { u.apu with dmc := u.apu.dmc.set k.val v k.isLt } }

/-- The status register enables channels and zeroes the length of a disabled one; it reads which lengths are above 0
(49_apu.md R630, R632, R634, R636, n6). That the audio producer may take a turn before each access is the model's
choice of where its steps fall (n6). -/
def Obligations.ApuStatusPort : Prop :=
  ∀ (v : Byte) (s : State),
    let u := audioTurn s
    wr 0x4015 v s =
      { u with
        apu :=
          { u.apu with
            enable := BitVec.ofNat 5 (v.toNat % 32)
            p1 := { u.apu.p1 with length := if v.getLsbD 0 then u.apu.p1.length else 0 }
            p2 := { u.apu.p2 with length := if v.getLsbD 1 then u.apu.p2.length else 0 }
            tri := { u.apu.tri with length := if v.getLsbD 2 then u.apu.tri.length else 0 }
            noi := { u.apu.noi with length := if v.getLsbD 3 then u.apu.noi.length else 0 } } } ∧
    (rd 0x4015 s).2 = u ∧
    (∀ k, (rd 0x4015 s).1.getLsbD k =
      if k = 0 then decide (0 < u.apu.p1.length.toNat)
      else if k = 1 then decide (0 < u.apu.p2.length.toNat)
      else if k = 2 then decide (0 < u.apu.tri.length.toNat)
      else if k = 3 then decide (0 < u.apu.noi.length.toNat)
      else false) ∧
    (∀ k : Fin 4, rd (0x4010 + BitVec.ofNat 16 k.val) s = (u.apu.dmc.get k, u)) ∧
    wr 0x4017 v s = u ∧ rd 0x4017 s = (busDefault, s)

/-- What the 240 Hz, 120 Hz and 60 Hz ticks do to envelopes, linear counter and length counters (R604, R605). -/
def Obligations.SequencerTicks : Prop :=
  ∀ u : Apu,
    tick240 u =
      { u with
        p1 := { u.p1 with
          env := (envelopeAfter u.p1.vol u.p1.loop u.p1.env u.p1.envDiv).1
          envDiv := (envelopeAfter u.p1.vol u.p1.loop u.p1.env u.p1.envDiv).2 }
        p2 := { u.p2 with
          env := (envelopeAfter u.p2.vol u.p2.loop u.p2.env u.p2.envDiv).1
          envDiv := (envelopeAfter u.p2.vol u.p2.loop u.p2.env u.p2.envDiv).2 }
        noi := { u.noi with
          env := (envelopeAfter u.noi.vol u.noi.loop u.noi.env u.noi.envDiv).1
          envDiv := (envelopeAfter u.noi.vol u.noi.loop u.noi.env u.noi.envDiv).2 }
        tri := { u.tri with linear := BitVec.ofNat 7 (u.tri.linear.toNat - 1) } } ∧
    tick120 u =
      { u with
        p1 := { u.p1 with length := BitVec.ofNat 8 (lengthAfter u.p1.loop u.p1.length.toNat) }
        p2 := { u.p2 with length := BitVec.ofNat 8 (lengthAfter u.p2.loop u.p2.length.toNat) }
        noi := { u.noi with length := BitVec.ofNat 8 (lengthAfter u.noi.loop u.noi.length.toNat) }
        tri := { u.tri with
          length := BitVec.ofNat 8 (lengthAfter u.tri.control u.tri.length.toNat)
          linear := if u.tri.reload then u.tri.reloadValue else u.tri.linear
          reload := u.tri.reload && u.tri.control } } ∧
    tick60 u = u

/-- Each whole unit of the rate accumulator is a 240 Hz tick; every second one is also a 120 Hz tick (R603). -/
def Obligations.FrameSequencerCascade : Prop :=
  (∀ (rate : Rat) (u : Apu) (n : Nat), 0 < rate → (n : Rat) ≤ u.fs.acc + 240 / rate →
      u.fs.acc + 240 / rate < n + 1 →
      fsAdvance rate u =
        times sequencerTick n { u with fs := { u.fs with acc := u.fs.acc + 240 / rate - n } }) ∧
    ∀ u : Apu, u.fs.n120 = false → u.fs.n60 = false →
      times sequencerTick 2 u = { tick120 (tick240 (tick240 u)) with fs := { u.fs with n60 := true } } ∧
      times sequencerTick 4 u = tick60 (tick120 (tick240 (tick240 (tick120 (tick240 (tick240 u))))))

/-- A silent pulse samples 0 and holds its phase; a sounding one samples its duty step; the triangle holds when gated
(R613, R642, R644). -/
def Obligations.ChannelSamples : Prop :=
  (∀ (ch : Pulse) (en : Bool) (rate : Rat),
      ((en = false ∨ ch.timer.toNat < 8 ∨ ch.length = 0) → pulseSample ch en rate = (0, ch)) ∧
      (en = true → 8 ≤ ch.timer.toNat → ch.length ≠ 0 →
        pulseSample ch en rate =
          ((dutyTable.getD ch.duty.toNat []).getD (8 * ch.phase).floor.toNat 0
              * (if ch.constVol then ch.vol.toNat else ch.env.toNat),
            let next := ch.phase + 1789773 / (16 * (ch.timer.toNat + 1)) / rate
            { ch with phase := next - next.floor }))) ∧
    ∀ (ch : Triangle) (en : Bool) (rate : Rat),
      (triSample ch en rate).1 = triTable.getD ch.phase.floor.toNat 0 ∧
      ((en = false ∨ ch.length = 0 ∨ ch.linear = 0) → (triSample ch en rate).2 = ch) ∧
      (en = true → ch.length ≠ 0 → ch.linear ≠ 0 →
        let next := ch.phase + 32 * (1789773 / (32 * (ch.timer.toNat + 1))) / rate
        (triSample ch en rate).2 = { ch with phase := next - 32 * (next / 32).floor })

/-- However often it shifts, the noise register is never zero (49_apu.md R646). -/
def Obligations.NoiseRegisterNeverZero : Prop :=
  ∀ (mode : Bool) (l : BitVec 15),
    (∀ n : Nat, l ≠ 0 → times (lfsrStep mode) n l ≠ 0) ∧
    ∀ i : Nat,
      (lfsrStep mode l).getLsbD i =
        if i = 14 then (l.getLsbD 0 ^^ l.getLsbD (if mode then 6 else 1)) else l.getLsbD (i + 1)

/-- LDA, LDX, LDY in every mode: the register takes the operand, N and Z are set from it, nothing else changes (R200,
R201, R202). -/
def Obligations.LoadInstructions : Prop :=
  ReadsAs ldaRow (fun m c => { c with a := m, p := nz m c.p }) ∧
  ImmediateAs 0xA9 .ldaImm (fun m c => { c with a := m, p := nz m c.p }) ∧
  ReadsAs ldxRow (fun m c => { c with x := m, p := nz m c.p }) ∧
  ImmediateAs 0xA2 .ldxImm (fun m c => { c with x := m, p := nz m c.p }) ∧
  ReadsAs ldyRow (fun m c => { c with y := m, p := nz m c.p }) ∧
  ImmediateAs 0xA0 .ldyImm (fun m c => { c with y := m, p := nz m c.p })

/-- STA, STX, STY in every mode: one write of the register at the effective address, no flag, no other byte (R203,
R204, R205). -/
def Obligations.StoreInstructions : Prop :=
  WritesAs staRow (fun c => c.a) ∧ WritesAs stxRow (fun c => c.x) ∧ WritesAs styRow (fun c => c.y)

/-- TAX, TAY, TXA, TYA, TSX set N and Z; TXS sets no flag; nothing but the destination changes (R206, R207, R208,
R209, R210, R211). -/
def Obligations.TransferInstructions : Prop :=
  RegistersAs 0xAA .tax (fun c => { c with x := c.a, p := nz c.a c.p }) ∧
  RegistersAs 0xA8 .tay (fun c => { c with y := c.a, p := nz c.a c.p }) ∧
  RegistersAs 0x8A .txa (fun c => { c with a := c.x, p := nz c.x c.p }) ∧
  RegistersAs 0x98 .tya (fun c => { c with a := c.y, p := nz c.y c.p }) ∧
  RegistersAs 0xBA .tsx (fun c => { c with x := c.s, p := nz c.s c.p }) ∧
  RegistersAs 0x9A .txs (fun c => { c with s := c.x })

/-- ADC and SBC in every mode, by exact arithmetic: the sum or difference modulo 256, C and V as carry and overflow
(41_cpu_arithmetic_logic.md R241, R242, R243, n11). That the results are binary whatever D holds is the model's choice
CPU_DECIMAL = false, the spec's default (R242, R5, D3; n11). -/
def Obligations.AddAndSubtract : Prop :=
  ReadsAs adcRow adds ∧ ImmediateAs 0x69 .adcImm adds ∧ ReadsAs sbcRow subtracts ∧ ImmediateAs 0xE9 .sbcImm subtracts

/-- AND, ORA, EOR in every mode: A takes the bitwise result, N and Z from it, C and V stay (R244, R245, R246). -/
def Obligations.LogicInstructions : Prop :=
  ReadsAs andRow (fun m c => intoA (c.a &&& m) c) ∧ ImmediateAs 0x29 .andImm (fun m c => intoA (c.a &&& m) c) ∧
  ReadsAs oraRow (fun m c => intoA (c.a ||| m) c) ∧ ImmediateAs 0x09 .oraImm (fun m c => intoA (c.a ||| m) c) ∧
  ReadsAs eorRow (fun m c => intoA (c.a ^^^ m) c) ∧ ImmediateAs 0x49 .eorImm (fun m c => intoA (c.a ^^^ m) c)

/-- CMP, CPX, CPY and BIT in every mode: flags only (R247, R248, R249, R250). -/
def Obligations.CompareAndBitTest : Prop :=
  ReadsAs cmpRow (fun m c => compares c.a m c) ∧ ImmediateAs 0xC9 .cmpImm (fun m c => compares c.a m c) ∧
  ReadsAs cpxRow (fun m c => compares c.x m c) ∧ ImmediateAs 0xE0 .cpxImm (fun m c => compares c.x m c) ∧
  ReadsAs cpyRow (fun m c => compares c.y m c) ∧ ImmediateAs 0xC0 .cpyImm (fun m c => compares c.y m c) ∧
  ReadsAs bitRow (fun m c =>
    { c with
      p := { c.p with n := m.getLsbD 7, v := m.getLsbD 6, z := decide (c.a &&& m = 0) } })

/-- ASL, LSR, ROL, ROR on A and on memory: result, C from the bit shifted out, N and Z from the result (R280, R281,
R282, R283). -/
def Obligations.ShiftsAndRotates : Prop :=
  AccumulatorAs 0x0A .aslAcc shiftLeft ∧ ModifiesAs aslRow shiftLeft ∧
  AccumulatorAs 0x4A .lsrAcc shiftRight ∧ ModifiesAs lsrRow shiftRight ∧
  AccumulatorAs 0x2A .rolAcc rotateLeft ∧ ModifiesAs rolRow rotateLeft ∧
  AccumulatorAs 0x6A .rorAcc rotateRight ∧ ModifiesAs rorRow rotateRight

/-- INC, DEC on memory and INX, INY, DEX, DEY: one more or less modulo 256, N and Z, never C or V (R284, R285, R286,
R287, R288, R289). -/
def Obligations.IncrementsAndDecrements : Prop :=
  ModifiesAs incRow increments ∧ ModifiesAs decRow decrements ∧
  RegistersAs 0xE8 .inx (fun c => { c with x := (increments c.x c.p).1, p := (increments c.x c.p).2 }) ∧
  RegistersAs 0xC8 .iny (fun c => { c with y := (increments c.y c.p).1, p := (increments c.y c.p).2 }) ∧
  RegistersAs 0xCA .dex (fun c => { c with x := (decrements c.x c.p).1, p := (decrements c.x c.p).2 }) ∧
  RegistersAs 0x88 .dey (fun c => { c with y := (decrements c.y c.p).1, p := (decrements c.y c.p).2 })

/-- JMP absolute and indirect; the pointer's low byte wraps inside its page (R310, R158). -/
def Obligations.JumpInstructions : Prop :=
  ∀ (w : Word) (s : State),
    (encode (.jmpAbs w) = [0x4C, lo w, hi w] ∧
      exec (.jmpAbs w) s = .next { s with cpu := { s.cpu with pc := w, pending := 2 } }) ∧
    let l := rd w (skip 3 s)
    let h := rd (BitVec.ofNat 16 (w.toNat / 256 * 256 + (w.toNat + 1) % 256)) l.2
    encode (.jmpInd w) = [0x6C, lo w, hi w] ∧
    exec (.jmpInd w) s = .next { h.2 with cpu := { s.cpu with pc := h.1 ++ l.1, pending := 4 } } ∧
    BytesKept s h.2

/-- JSR pushes the address of its last byte, high byte first, and jumps; RTS pulls an address and adds one (R311,
R312). -/
def Obligations.SubroutineCallAndReturn : Prop :=
  ∀ (w : Word) (s : State),
    let ret := s.cpu.pc + 2
    let u :=
      { s with
        ram := Mem.write (Mem.write s.ram (slot s.cpu.s) (hi ret)) (slot (s.cpu.s - 1)) (lo ret)
        cpu := { s.cpu with s := s.cpu.s - 2, pc := w, pending := 5 } }
    encode (.jsr w) = [0x20, lo w, hi w] ∧ exec (.jsr w) s = .next u ∧
    (∀ k, k ≠ slot s.cpu.s → k ≠ slot (s.cpu.s - 1) → Mem.read u.ram k = Mem.read s.ram k) ∧
    (Mem.wf s.ram = true →
      Mem.read u.ram (slot s.cpu.s) = hi ret ∧ Mem.read u.ram (slot (s.cpu.s - 1)) = lo ret) ∧
    encode .rts = [0x60] ∧
    exec .rts s =
      .next
        { s with
          cpu :=
            { s.cpu with
              s := s.cpu.s + 2
              pc := Mem.read s.ram (slot (s.cpu.s + 2)) ++ Mem.read s.ram (slot (s.cpu.s + 1)) + 1
              pending := 5 } }

/-- The eight conditional branches: condition, target, and 2, 3 or 4 cycles; nothing else changes (R313, R314, R315,
R316, R317, R318, R319, R320, R321). -/
def Obligations.BranchInstructions : Prop :=
  BranchesAs 0x90 .bcc (fun p => !p.c) ∧ BranchesAs 0xB0 .bcs (fun p => p.c) ∧
  BranchesAs 0xF0 .beq (fun p => p.z) ∧ BranchesAs 0xD0 .bne (fun p => !p.z) ∧
  BranchesAs 0x30 .bmi (fun p => p.n) ∧ BranchesAs 0x10 .bpl (fun p => !p.n) ∧
  BranchesAs 0x50 .bvc (fun p => !p.v) ∧ BranchesAs 0x70 .bvs (fun p => p.v)

/-- BRK pushes PC + 2 and the status byte with bit 4 set, sets I, and enters the handler at the IRQ/BRK vector (R322).
-/
def Obligations.BreakInstruction : Prop :=
  ∀ s : State,
    let u := entered (s.cpu.pc + 2) (statusByte true s.cpu.p) 0xFFFE s
    encode .brk = [0x00] ∧ exec .brk s = .next u ∧
    (∀ k, k ≠ slot s.cpu.s → k ≠ slot (s.cpu.s - 1) → k ≠ slot (s.cpu.s - 2) →
      Mem.read u.ram k = Mem.read s.ram k) ∧
    (Mem.wf s.ram = true →
      Mem.read u.ram (slot s.cpu.s) = hi (s.cpu.pc + 2) ∧
      Mem.read u.ram (slot (s.cpu.s - 1)) = lo (s.cpu.pc + 2) ∧
      Mem.read u.ram (slot (s.cpu.s - 2)) = statusByte true s.cpu.p)

/-- RTI pulls the six flags and then PC, with no increment (R323, R713). -/
def Obligations.ReturnFromInterrupt : Prop :=
  ∀ s : State,
    encode .rti = [0x40] ∧
    exec .rti s =
      .next
        { s with
          cpu :=
            { s.cpu with
              s := s.cpu.s + 3, p := flagsFrom (Mem.read s.ram (slot (s.cpu.s + 1)))
              pc := Mem.read s.ram (slot (s.cpu.s + 3)) ++ Mem.read s.ram (slot (s.cpu.s + 2))
              pending := 5 } }

/-- CLC, SEC, CLI, SEI, CLD, SED, CLV change one flag; NOP changes none (R350, R351, R352, R353, R354, R355, R356,
R361). -/
def Obligations.FlagInstructionsAndNop : Prop :=
  RegistersAs 0x18 .clc (fun c => { c with p := { c.p with c := false } }) ∧
  RegistersAs 0x38 .sec (fun c => { c with p := { c.p with c := true } }) ∧
  RegistersAs 0x58 .cli (fun c => { c with p := { c.p with i := false } }) ∧
  RegistersAs 0x78 .sei (fun c => { c with p := { c.p with i := true } }) ∧
  RegistersAs 0xD8 .cld (fun c => { c with p := { c.p with d := false } }) ∧
  RegistersAs 0xF8 .sed (fun c => { c with p := { c.p with d := true } }) ∧
  RegistersAs 0xB8 .clv (fun c => { c with p := { c.p with v := false } }) ∧
  RegistersAs 0xEA .nop (fun c => c)

/-- PHA, PHP, PLA, PLP and the status byte they push and pull (R357, R358, R359, R360, R24). -/
def Obligations.StackInstructions : Prop :=
  ∀ s : State,
    let pushed := fun (v : Byte) =>
      { s with
        ram := Mem.write s.ram (slot s.cpu.s) v
        cpu := { s.cpu with s := s.cpu.s - 1, pc := s.cpu.pc + 1, pending := 2 } }
    let pulled := Mem.read s.ram (slot (s.cpu.s + 1))
    let c := { s.cpu with s := s.cpu.s + 1, pc := s.cpu.pc + 1, pending := 3 }
    (encode .pha = [0x48] ∧ exec .pha s = .next (pushed s.cpu.a)) ∧
    (encode .php = [0x08] ∧ exec .php s = .next (pushed (statusByte true s.cpu.p))) ∧
    (∀ v k, k ≠ slot s.cpu.s → Mem.read (pushed v).ram k = Mem.read s.ram k) ∧
    (∀ v, Mem.wf s.ram = true → Mem.read (pushed v).ram (slot s.cpu.s) = v) ∧
    (encode .pla = [0x68] ∧
      exec .pla s = .next { s with cpu := { c with a := pulled, p := nz pulled s.cpu.p } }) ∧
    (encode .plp = [0x28] ∧ exec .plp s = .next { s with cpu := { c with p := flagsFrom pulled } }) ∧
    (∀ b p, pByte b p = statusByte b p ∧ flagsOfByte (statusByte b p) = p) ∧
    ∀ v, flagsOfByte v = flagsFrom v

/-- The effective address and the page-cross flag of each addressing mode, with its wraps (R150, R151, R152, R153,
R154, R155, R156, R157). -/
def Obligations.EffectiveAddresses : Prop :=
  ∀ (b : Byte) (w : Word) (s : State),
    (effAddr (.zp b) s).addr.toNat = b.toNat ∧
    (effAddr (.zpx b) s).addr.toNat = (b.toNat + s.cpu.x.toNat) % 256 ∧
    (effAddr (.zpy b) s).addr.toNat = (b.toNat + s.cpu.y.toNat) % 256 ∧
    (effAddr (.abs w) s).addr = w ∧
    (effAddr (.absx w) s).addr.toNat = (w.toNat + s.cpu.x.toNat) % 65536 ∧
    (effAddr (.absy w) s).addr.toNat = (w.toNat + s.cpu.y.toNat) % 65536 ∧
    (effAddr (.indx b) s).addr = zeroPagePointer s (BitVec.ofNat 8 (b.toNat + s.cpu.x.toNat)) ∧
    (effAddr (.indy b) s).addr.toNat = ((zeroPagePointer s b).toNat + s.cpu.y.toNat) % 65536 ∧
    (∀ m, m = .zp b ∨ m = .zpx b ∨ m = .zpy b ∨ m = .abs w ∨ m = .indx b → (effAddr m s).cross = false) ∧
    ((effAddr (.absx w) s).cross = true ↔ (effAddr (.absx w) s).addr.toNat / 256 ≠ w.toNat / 256) ∧
    ((effAddr (.absy w) s).cross = true ↔ (effAddr (.absy w) s).addr.toNat / 256 ≠ w.toNat / 256) ∧
    ((effAddr (.indy b) s).cross = true ↔
      (effAddr (.indy b) s).addr.toNat / 256 ≠ (zeroPagePointer s b).toNat / 256) ∧
    ∀ m, (effAddr m s).st = s

/-- The values of the four APU tables: lengths, noise periods, duty waveforms, triangle ramp (R606, R607, R608, R609).
-/
def Obligations.SoundTables : Prop :=
  lenTable.map BitVec.toNat =
      [10, 254, 20, 2, 40, 4, 80, 6, 160, 8, 60, 10, 14, 12, 26, 14, 12, 16, 24, 18, 48, 20, 96, 22, 192, 24, 72, 26,
        16, 28, 32, 30] ∧
    noisePeriodTable = [4, 8, 16, 32, 64, 96, 128, 160, 202, 254, 380, 508, 762, 1016, 2034, 4068] ∧
    dutyTable =
      [[0, 1, 0, 0, 0, 0, 0, 0], [0, 1, 1, 0, 0, 0, 0, 0], [0, 1, 1, 1, 1, 0, 0, 0], [1, 0, 0, 1, 1, 1, 1, 1]] ∧
    triTable = (List.range 32).map (fun k => if k < 16 then 15 - k else k - 16)

/-- The noise channel: its sample, the advance of its phase, and one register shift for each whole period that has
passed (49_apu.md R646, R612, R650). -/
def Obligations.NoiseSample : Prop :=
  ∀ (ch : Noise) (en : Bool) (rate : Rat) (n : Nat),
    let moved := ch.phase + 1789773 / ((noisePeriodTable.getD ch.periodIndex.toNat 1 : Nat) : Rat) / rate
    (n : Rat) ≤ moved → moved < n + 1 →
    noiseSample ch en rate =
      (if en = true ∧ 0 < ch.length.toNat ∧ ch.lfsr.getLsbD 0 = false then
          (if ch.constVol then ch.vol.toNat else ch.env.toNat)
        else 0,
        { ch with phase := moved - n, lfsr := times (noiseShift ch.mode) n ch.lfsr })

/-- One sample step: sequencer, four channels, mixer, filter, volume; and a pull of many, interleaved by channel
(49_apu.md R640, R641, R660, R661, R662, R663, R664, n13, n14, n20). That samples are exact rationals and mixed by the
default formulas is the model's choice (n14), as is the refusal (n20); the filter away from silence is open (n13). -/
def Obligations.SampleStepAndPull : Prop :=
  ∀ (vol : UserVolume) (rate : Rat) (u : Apu),
    let w := fsAdvance rate u
    let s1 := pulseSample w.p1 (w.enable.getLsbD 0) rate
    let s2 := pulseSample w.p2 (w.enable.getLsbD 1) rate
    let t := triSample w.tri (w.enable.getLsbD 2) rate
    let n := noiseSample w.noi (w.enable.getLsbD 3) rate
    let y := filtered w.filt (mixed s1.1 s2.1 t.1 n.1) rate
    sampleStep vol rate u =
      (vol.val * y.1, { w with p1 := s1.2, p2 := s2.2, tri := t.2, noi := n.2, filt := y.2 }) ∧
    0 ≤ vol.val ∧ vol.val ≤ 1 ∧ s1.1 ≤ 15 ∧ s2.1 ≤ 15 ∧ t.1 ≤ 15 ∧ n.1 ≤ 15 ∧
    ∀ (count channels : Nat) (s : State),
      let next := fun v : Apu => (sampleStep vol rate v).2
      (0 < rate → 1 ≤ channels →
        progress count vol rate channels s =
          .ok
            ((List.range count).flatMap fun k =>
                List.replicate channels (sampleStep vol rate (times next k s.apu)).1,
              { s with apu := times next count s.apu })) ∧
      (¬ (0 < rate ∧ 1 ≤ channels) → progress count vol rate channels s = .error .invalidPull)
end

