-- ==== Sys2Proof/Laws/Memory.lean ====
section
/-! SUPPORT. Laws of one byte storage: a read after a write, the canonical form, the size bound, and equality of storages
that read alike. -/

namespace Sys2Proof.Laws

open Sys2Proof Sys2Proof.Machine

theorem mem_read_putCell_ne {a k : Nat} (h : k ≠ a) (v : Byte) (rest : Mem) :
    Mem.read (Mem.putCell a v rest) k = Mem.read rest k := by
  unfold Mem.putCell
  split
  · rfl
  · simp [Mem.read, Ne.symm h]

/-- A write leaves every other byte alone, in any storage. -/
theorem mem_read_write_ne {a k : Nat} (h : k ≠ a) (m : Mem) (v : Byte) :
    Mem.read (Mem.write m a v) k = Mem.read m k := by
  induction m with
  | nil => exact mem_read_putCell_ne h v []
  | cons cell rest ih =>
    obtain ⟨b, w⟩ := cell
    simp only [Mem.write]
    split
    · exact mem_read_putCell_ne h v _
    · split
      · next hab => subst hab; rw [mem_read_putCell_ne h]; simp [Mem.read, Ne.symm h]
      · simp [Mem.read, ih]

theorem mem_wfFrom_le {lo lo' : Nat} (h : lo' ≤ lo) {m : Mem} (hm : Mem.wfFrom lo m = true) :
    Mem.wfFrom lo' m = true := by
  cases m with
  | nil => rfl
  | cons cell rest =>
    simp only [Mem.wfFrom, Bool.and_eq_true, decide_eq_true_eq] at hm ⊢
    exact ⟨⟨by omega, hm.1.2⟩, hm.2⟩

/-- Below its first index a canonical storage reads as unlisted. -/
theorem mem_read_below {lo a : Nat} (h : a < lo) {m : Mem} (hm : Mem.wfFrom lo m = true) :
    Mem.read m a = Mem.unlisted := by
  induction m generalizing lo with
  | nil => rfl
  | cons cell rest ih =>
    obtain ⟨b, w⟩ := cell
    simp only [Mem.wfFrom, Bool.and_eq_true, decide_eq_true_eq] at hm
    simp only [Mem.read]
    rw [if_neg (by omega)]
    exact ih (by omega) hm.2

theorem mem_wfFrom_putCell {lo a : Nat} (h : lo ≤ a) (v : Byte) {rest : Mem} (hr : Mem.wfFrom (a + 1) rest = true) :
    Mem.wfFrom lo (Mem.putCell a v rest) = true := by
  unfold Mem.putCell
  split
  · exact mem_wfFrom_le (by omega) hr
  · next hv => simp [Mem.wfFrom, h, hr, hv]

/-- A write keeps the canonical form. -/
theorem mem_wfFrom_write {lo a : Nat} (h : lo ≤ a) (v : Byte) {m : Mem} (hm : Mem.wfFrom lo m = true) :
    Mem.wfFrom lo (Mem.write m a v) = true := by
  induction m generalizing lo with
  | nil => exact mem_wfFrom_putCell h v rfl
  | cons cell rest ih =>
    obtain ⟨b, w⟩ := cell
    have hm' := hm
    simp only [Mem.wfFrom, Bool.and_eq_true, decide_eq_true_eq] at hm'
    simp only [Mem.write]
    split
    · next hab =>
      refine mem_wfFrom_putCell h v ?_
      simp only [Mem.wfFrom, Bool.and_eq_true, decide_eq_true_eq]
      exact ⟨⟨by omega, hm'.1.2⟩, hm'.2⟩
    · split
      · next hab => subst hab; exact mem_wfFrom_putCell h v hm'.2
      · simp only [Mem.wfFrom, Bool.and_eq_true, decide_eq_true_eq]
        exact ⟨hm'.1, ih (by omega) hm'.2⟩

/-- A write keeps the canonical form. -/
theorem mem_wf_write {m : Mem} (hm : Mem.wf m = true) (a : Nat) (v : Byte) : Mem.wf (Mem.write m a v) = true :=
  mem_wfFrom_write (Nat.zero_le a) v hm

theorem mem_read_putCell_eq {a : Nat} (v : Byte) {rest : Mem} (hr : Mem.wfFrom (a + 1) rest = true) :
    Mem.read (Mem.putCell a v rest) a = v := by
  unfold Mem.putCell
  split
  · next hv => rw [mem_read_below (Nat.lt_succ_self a) hr, hv]
  · simp [Mem.read]

theorem mem_read_write_from {lo : Nat} (a : Nat) (v : Byte) {m : Mem} (hm : Mem.wfFrom lo m = true) :
    Mem.read (Mem.write m a v) a = v := by
  induction m generalizing lo with
  | nil => exact mem_read_putCell_eq v rfl
  | cons cell rest ih =>
    obtain ⟨b, w⟩ := cell
    have hm' := hm
    simp only [Mem.wfFrom, Bool.and_eq_true, decide_eq_true_eq] at hm'
    simp only [Mem.write]
    split
    · next hab =>
      refine mem_read_putCell_eq v ?_
      simp only [Mem.wfFrom, Bool.and_eq_true, decide_eq_true_eq]
      exact ⟨⟨by omega, hm'.1.2⟩, hm'.2⟩
    · split
      · next hab => subst hab; exact mem_read_putCell_eq v hm'.2
      · next hab => simp only [Mem.read]; rw [if_neg (fun h => hab h.symm)]; exact ih hm'.2

/-- A read after a write to the same index gives the value written. -/
theorem mem_read_write_eq {m : Mem} (hm : Mem.wf m = true) (a : Nat) (v : Byte) : Mem.read (Mem.write m a v) a = v :=
  mem_read_write_from a v hm

/-- Every index of a canonical storage after a write. -/
theorem mem_read_write {m : Mem} (hm : Mem.wf m = true) (a k : Nat) (v : Byte) :
    Mem.read (Mem.write m a v) k = if k = a then v else Mem.read m k := by
  split
  · next h => subst h; exact mem_read_write_eq hm k v
  · next h => exact mem_read_write_ne h m v

theorem mem_below_putCell {size a : Nat} (h : a < size) (v : Byte) {rest : Mem}
    (hr : Mem.below size rest = true) : Mem.below size (Mem.putCell a v rest) = true := by
  unfold Mem.putCell
  split
  · exact hr
  · simpa [Mem.below, h] using hr

/-- A write inside the size keeps every index inside it. -/
theorem mem_below_write {size a : Nat} (h : a < size) (v : Byte) {m : Mem} (hm : Mem.below size m = true) :
    Mem.below size (Mem.write m a v) = true := by
  induction m with
  | nil => exact mem_below_putCell h v rfl
  | cons cell rest ih =>
    obtain ⟨b, w⟩ := cell
    have hm' : b < size ∧ Mem.below size rest = true := by simpa [Mem.below] using hm
    simp only [Mem.write]
    split
    · exact mem_below_putCell h v hm
    · split
      · exact mem_below_putCell h v hm'.2
      · simpa [Mem.below, hm'.1] using ih hm'.2

/-- A tabulated storage is canonical. -/
theorem mem_wfFrom_tabulate (f : Nat → Byte) (lo n : Nat) : Mem.wfFrom lo (Mem.tabulate f lo n) = true := by
  induction n generalizing lo with
  | zero => rfl
  | succ n ih => exact mem_wfFrom_putCell (Nat.le_refl lo) (f lo) (ih (lo + 1))

theorem mem_wf_tabulate (f : Nat → Byte) (n : Nat) : Mem.wf (Mem.tabulate f 0 n) = true :=
  mem_wfFrom_tabulate f 0 n

theorem mem_below_tabulate (f : Nat → Byte) (lo n size : Nat) (h : lo + n ≤ size) :
    Mem.below size (Mem.tabulate f lo n) = true := by
  induction n generalizing lo with
  | zero => rfl
  | succ n ih => exact mem_below_putCell (by omega) (f lo) (ih (lo + 1) (by omega))

/-- A tabulated storage reads as its function, inside its range. -/
theorem mem_read_tabulate (f : Nat → Byte) (lo n k : Nat) (h1 : lo ≤ k) (h2 : k < lo + n) :
    Mem.read (Mem.tabulate f lo n) k = f k := by
  induction n generalizing lo with
  | zero => omega
  | succ n ih =>
    by_cases hk : k = lo
    · subst hk; exact mem_read_putCell_eq (f k) (mem_wfFrom_tabulate f (k + 1) n)
    · rw [show Mem.tabulate f lo (n + 1) = Mem.putCell lo (f lo) (Mem.tabulate f (lo + 1) n) from rfl,
        mem_read_putCell_ne hk]
      exact ih (lo + 1) (by omega) (by omega)

/-- Canonical storages that read alike are equal. -/
theorem mem_ext_from {lo : Nat} {m m' : Mem} (hm : Mem.wfFrom lo m = true) (hm' : Mem.wfFrom lo m' = true)
    (h : ∀ k, Mem.read m k = Mem.read m' k) : m = m' := by
  induction m generalizing lo m' with
  | nil =>
    cases m' with
    | nil => rfl
    | cons cell rest =>
      simp only [Mem.wfFrom, Bool.and_eq_true, decide_eq_true_eq] at hm'
      exact absurd (by simpa [Mem.read] using (h cell.1).symm) hm'.1.2
  | cons cell rest ih =>
    obtain ⟨a, v⟩ := cell
    simp only [Mem.wfFrom, Bool.and_eq_true, decide_eq_true_eq] at hm
    cases m' with
    | nil => exact absurd (by simpa [Mem.read] using h a) hm.1.2
    | cons cell' rest' =>
      obtain ⟨b, w⟩ := cell'
      simp only [Mem.wfFrom, Bool.and_eq_true, decide_eq_true_eq] at hm'
      have hab : a = b := by
        by_contra hne
        rcases Nat.lt_or_gt_of_ne hne with hlt | hlt
        · have := h a
          simp only [Mem.read, if_pos, if_neg (Ne.symm hne)] at this
          rw [mem_read_below (by omega : a < b + 1) hm'.2] at this
          exact hm.1.2 this
        · have := h b
          simp only [Mem.read, if_pos, if_neg hne] at this
          rw [mem_read_below (by omega : b < a + 1) hm.2] at this
          exact hm'.1.2 this.symm
      subst hab
      have hvw : v = w := by simpa [Mem.read] using h a
      subst hvw
      congr 1
      refine ih hm.2 hm'.2 fun k => ?_
      by_cases hk : a = k
      · subst hk
        rw [mem_read_below (Nat.lt_succ_self _) hm.2, mem_read_below (Nat.lt_succ_self _) hm'.2]
      · simpa [Mem.read, hk] using h k

theorem mem_ext {m m' : Mem} (hm : Mem.wf m = true) (hm' : Mem.wf m' = true)
    (h : ∀ k, Mem.read m k = Mem.read m' k) : m = m' := mem_ext_from hm hm' h

/-- Writing the byte an index already holds changes nothing. -/
theorem mem_write_same {m : Mem} (hm : Mem.wf m = true) (a : Nat) : Mem.write m a (Mem.read m a) = m := by
  refine mem_ext (mem_wf_write hm a _) hm fun k => ?_
  rw [mem_read_write hm]
  split
  · next h => rw [h]
  · rfl

/-- `times` moves one application from the front to the back. -/
theorem times_succ {α : Type} (f : α → α) (n : Nat) (x : α) : times f (n + 1) x = f (times f n x) := by
  induction n generalizing x with
  | zero => rfl
  | succ n ih => exact ih (f x)

theorem times_add {α : Type} (f : α → α) (m n : Nat) (x : α) : times f (m + n) x = times f n (times f m x) := by
  induction m generalizing x with
  | zero => simp [times]
  | succ m ih => rw [Nat.succ_add]; exact ih (f x)

/-- A property one application keeps, `n` applications keep. -/
theorem times_keeps {α : Type} {f : α → α} {P : α → Prop} (h : ∀ x, P x → P (f x)) (n : Nat) {x : α} (hx : P x) :
    P (times f n x) := by
  induction n generalizing x with
  | zero => exact hx
  | succ n ih => exact ih (h x hx)

end Sys2Proof.Laws
end

