-- ==== Sys2Proof/Laws/Audio.lean ====
section
/-! SUPPORT. The APU stays in its ranges through every register write and every sample step. -/

namespace Sys2Proof.Laws

open Sys2Proof Sys2Proof.Machine Sys2Proof.Safety

/-- What is left after the whole units are taken out lies in [0, 1). -/
theorem rat_fraction {x : Rat} (h : 0 ≤ x) : 0 ≤ x - (x.floor.toNat : Rat) ∧ x - (x.floor.toNat : Rat) < 1 := by
  have h0 : (0 : Int) ≤ x.floor := Int.floor_nonneg.mpr h
  have h1 : ((x.floor.toNat : Int) : Rat) = (x.floor : Rat) := by rw [Int.toNat_of_nonneg h0]
  rw [Int.cast_natCast] at h1
  rw [h1]
  have hl : (x.floor : Rat) ≤ x := Int.floor_le x
  have hu : x < x.floor + 1 := Int.lt_floor_add_one x
  exact ⟨by linarith, by linarith⟩

/-- A reduced phase lies in its range. -/
theorem ratMod_range (x : Rat) {m : Rat} (hm : 0 < m) : 0 ≤ ratMod x m ∧ ratMod x m < m := by
  have hl : ((x / m).floor : Rat) ≤ x / m := Int.floor_le (x / m)
  have hu : x / m < (x / m).floor + 1 := Int.lt_floor_add_one (x / m)
  rw [le_div_iff₀ hm] at hl
  rw [div_lt_iff₀ hm] at hu
  unfold ratMod
  exact ⟨by nlinarith, by nlinarith⟩

theorem nibble_le (v : BitVec 4) : v.toNat ≤ 15 := by have := v.isLt; omega

theorem pulseWrite_legal {ch : Pulse} (h : PulseLegal ch) (k : Fin 4) (v : Byte) : PulseLegal (pulseWrite ch k v) := by
  obtain ⟨h1, h2, h3⟩ := h
  unfold pulseWrite
  simp only []
  split
  · exact ⟨h1, h2, h3⟩
  · exact ⟨h1, h2, h3⟩
  · exact ⟨h1, h2, h3⟩
  · refine ⟨?_, le_refl _, by norm_num⟩
    show (if ch.constVol then ch.envDiv else ch.vol.toNat) ≤ 15
    split
    · exact h1
    · exact nibble_le _

theorem triWrite_phase (ch : Triangle) (k : Fin 4) (v : Byte) : (triWrite ch k v).phase = ch.phase := by
  unfold triWrite
  simp only []
  split <;> rfl

theorem noiseWrite_frame (ch : Noise) (k : Fin 4) (v : Byte) :
    (noiseWrite ch k v).phase = ch.phase ∧ (noiseWrite ch k v).lfsr = ch.lfsr ∧
      (ch.envDiv ≤ 15 → (noiseWrite ch k v).envDiv ≤ 15) := by
  unfold noiseWrite
  simp only []
  split
  · exact ⟨rfl, rfl, id⟩
  · exact ⟨rfl, rfl, id⟩
  · exact ⟨rfl, rfl, id⟩
  · refine ⟨rfl, rfl, fun h => ?_⟩
    show (if ch.constVol then ch.envDiv else ch.vol.toNat) ≤ 15
    split
    · exact h
    · exact nibble_le _

theorem statusWrite_legal {u : Apu} (h : ApuLegal u) (v : Byte) : ApuLegal (statusWrite u v) :=
  ⟨⟨h.p1.1, h.p1.2, h.p1.3⟩, ⟨h.p2.1, h.p2.2, h.p2.3⟩, h.triLow, h.triHigh, h.noiseDiv, h.noiseLow, h.noiseHigh,
    h.lfsr, h.accLow, h.accHigh⟩

/-- Every APU register write keeps the ranges (R600). -/
theorem apuWrite_legal {u u' : Apu} (h : ApuLegal u) {a : Word} {v : Byte} (hw : apuWrite a v u = some u') :
    ApuLegal u' := by
  have hq := h
  obtain ⟨h1, h2, h3, h4, h5, h6, h7, h8, h9, h10⟩ := hq
  unfold apuWrite at hw
  simp only [] at hw
  split at hw
  · cases hw; exact ⟨pulseWrite_legal h1 _ _, h2, h3, h4, h5, h6, h7, h8, h9, h10⟩
  split at hw
  · cases hw; exact ⟨h1, pulseWrite_legal h2 _ _, h3, h4, h5, h6, h7, h8, h9, h10⟩
  split at hw
  · cases hw; exact ⟨h1, h2, by simpa [triWrite_phase], by simpa [triWrite_phase], h5, h6, h7, h8, h9, h10⟩
  split at hw
  · cases hw
    obtain ⟨e1, e2, e3⟩ := noiseWrite_frame u.noi (blockReg a) v
    exact ⟨h1, h2, h3, h4, e3 h5, by simpa [e1], by simpa [e1], by simpa [e2], h9, h10⟩
  split at hw
  · cases hw; exact ⟨h1, h2, h3, h4, h5, h6, h7, h8, h9, h10⟩
  split at hw
  · cases hw; exact statusWrite_legal h v
  split at hw
  · cases hw; exact h
  · cases hw

theorem envelopeStep_div {vol : BitVec 4} {loop : Bool} {env : BitVec 4} {div : Nat} (h : div ≤ 15) :
    (envelopeStep vol loop env div).2 ≤ 15 := by
  unfold envelopeStep
  split
  · exact nibble_le vol
  · simp; omega

theorem pulseTick240_legal {ch : Pulse} (h : PulseLegal ch) : PulseLegal (pulseTick240 ch) :=
  ⟨envelopeStep_div h.1, h.2, h.3⟩

theorem tick240_legal {u : Apu} (h : ApuLegal u) : ApuLegal (tick240 u) :=
  ⟨pulseTick240_legal h.p1, pulseTick240_legal h.p2, h.triLow, h.triHigh, envelopeStep_div h.noiseDiv, h.noiseLow,
    h.noiseHigh, h.lfsr, h.accLow, h.accHigh⟩

theorem tick120_legal {u : Apu} (h : ApuLegal u) : ApuLegal (tick120 u) :=
  ⟨⟨h.p1.1, h.p1.2, h.p1.3⟩, ⟨h.p2.1, h.p2.2, h.p2.3⟩, h.triLow, h.triHigh, h.noiseDiv, h.noiseLow, h.noiseHigh,
    h.lfsr, h.accLow, h.accHigh⟩

theorem apuLegal_fs {u : Apu} (h : ApuLegal u) (f : FrameSeq) (h1 : 0 ≤ f.acc) (h2 : f.acc < 1) :
    ApuLegal { u with fs := f } :=
  ⟨h.p1, h.p2, h.triLow, h.triHigh, h.noiseDiv, h.noiseLow, h.noiseHigh, h.lfsr, h1, h2⟩

/-- One pass of the frame sequencer keeps the ranges (R603). -/
theorem sequencerTick_legal {u : Apu} (h : ApuLegal u) : ApuLegal (sequencerTick u) := by
  have h1 := tick240_legal h
  have h2 := apuLegal_fs h1 { (tick240 u).fs with n120 := !(tick240 u).fs.n120 } h1.accLow h1.accHigh
  have h3 := tick120_legal h2
  unfold sequencerTick tick60
  simp only []
  split
  · exact h2
  · split <;> exact apuLegal_fs h3 _ h3.accLow h3.accHigh

theorem fsAdvance_legal {u : Apu} (h : ApuLegal u) {rate : Rat} (hr : 0 < rate) : ApuLegal (fsAdvance rate u) := by
  have hq : 0 < 240 / rate := by positivity
  have hf := rat_fraction (x := u.fs.acc + 240 / rate) (by have := h.accLow; linarith)
  exact times_keeps (P := ApuLegal) (fun _ => sequencerTick_legal) _
    (apuLegal_fs h { u.fs with acc := u.fs.acc + 240 / rate - ((u.fs.acc + 240 / rate).floor.toNat : Rat) } hf.1 hf.2)

theorem pulseSample_legal {ch : Pulse} (h : PulseLegal ch) (en : Bool) (rate : Rat) :
    PulseLegal (pulseSample ch en rate).2 := by
  unfold pulseSample
  split
  · exact h
  · have := ratMod_range (ch.phase + pulseFreq ch.timer / rate) (m := 1) (by norm_num)
    exact ⟨h.1, this.1, this.2⟩

theorem triSample_range {ch : Triangle} (h1 : 0 ≤ ch.phase) (h2 : ch.phase < 32) (en : Bool) (rate : Rat) :
    0 ≤ (triSample ch en rate).2.phase ∧ (triSample ch en rate).2.phase < 32 := by
  unfold triSample
  simp only []
  split
  · exact ratMod_range _ (by norm_num)
  · exact ⟨h1, h2⟩

/-- The noise register never becomes zero (R646). -/
theorem lfsrStep_ne_zero (mode : Bool) {l : BitVec 15} (h : l ≠ 0) : lfsrStep mode l ≠ 0 := by
  intro hz
  apply h
  have hb : ∀ i : Nat, (lfsrStep mode l).getLsbD i = false := fun i => by rw [hz]; simp
  have hup : ∀ i : Nat, i < 14 → l.getLsbD (i + 1) = false := by
    intro i hi
    have := hb i
    unfold lfsrStep at this
    simp only [BitVec.getLsbD_or, BitVec.getLsbD_ushiftRight, Bool.or_eq_false_iff] at this
    rw [Nat.add_comm]; exact this.1
  have h1 : l.getLsbD 1 = false := hup 0 (by omega)
  have h6 : l.getLsbD 6 = false := hup 5 (by omega)
  have h0 : l.getLsbD 0 = false := by
    cases h0 : l.getLsbD 0 with
    | false => rfl
    | true =>
      have := hb 14
      unfold lfsrStep at this
      simp only [h0, h1, h6] at this
      cases mode <;> simp at this
  refine BitVec.eq_of_getLsbD_eq fun i hi => ?_
  rw [show (0 : BitVec 15).getLsbD i = false by simp]
  cases i with
  | zero => exact h0
  | succ i => exact hup i (by omega)

theorem noiseRate_pos (i : BitVec 4) : 0 < noiseRate i := by
  have : ∀ j : Fin 16, 0 < noisePeriodTable.getD j.val 1 := by decide
  have hp : (0 : Rat) < ((noisePeriodTable.getD i.toNat 1 : Nat) : Rat) := by exact_mod_cast this ⟨i.toNat, i.isLt⟩
  unfold noiseRate cpuClockHz
  positivity

theorem noiseSample_legal {ch : Noise} (h1 : 0 ≤ ch.phase) (h2 : ch.lfsr ≠ 0) (h3 : ch.envDiv ≤ 15) (en : Bool)
    {rate : Rat} (hr : 0 < rate) :
    0 ≤ (noiseSample ch en rate).2.phase ∧ (noiseSample ch en rate).2.phase < 1 ∧
      (noiseSample ch en rate).2.lfsr ≠ 0 ∧ (noiseSample ch en rate).2.envDiv ≤ 15 := by
  have hp : 0 < noiseRate ch.periodIndex / rate := div_pos (noiseRate_pos _) hr
  have hf := rat_fraction (x := ch.phase + noiseRate ch.periodIndex / rate) (by linarith)
  refine ⟨hf.1, hf.2, ?_, h3⟩
  exact times_keeps (P := fun l => l ≠ 0) (fun l hl => lfsrStep_ne_zero ch.mode hl) _ h2

/-- One sample step keeps the ranges, at a positive rate (R640). -/
theorem sampleStep_legal {u : Apu} (h : ApuLegal u) (vol : UserVolume) {rate : Rat} (hr : 0 < rate) :
    ApuLegal (sampleStep vol rate u).2 := by
  have hf := fsAdvance_legal h hr
  have h1 := pulseSample_legal hf.p1 ((fsAdvance rate u).enable.getLsbD 0) rate
  have h2 := pulseSample_legal hf.p2 ((fsAdvance rate u).enable.getLsbD 1) rate
  have h3 := triSample_range hf.triLow hf.triHigh ((fsAdvance rate u).enable.getLsbD 2) rate
  have h4 := noiseSample_legal hf.noiseLow hf.lfsr hf.noiseDiv ((fsAdvance rate u).enable.getLsbD 3) hr
  exact ⟨h1, h2, h3.1, h3.2, h4.2.2.2, h4.1, h4.2.1, h4.2.2.1, hf.accLow, hf.accHigh⟩

/-- Any turn of the audio producer keeps the ranges (R602). -/
theorem runSamples_legal {u : Apu} (h : ApuLegal u) (rates : List Rat) : ApuLegal (runSamples rates u) := by
  unfold runSamples
  induction rates generalizing u with
  | nil => exact h
  | cons rate rest ih =>
    refine ih ?_
    show ApuLegal (if 0 < rate then (sampleStep fullVolume rate u).2 else u)
    split
    · next hr => exact sampleStep_legal h fullVolume hr
    · exact h

theorem apuReset_legal : ApuLegal Apu.reset :=
  ⟨⟨by decide, le_refl _, by norm_num [Apu.reset, Pulse.reset]⟩, ⟨by decide, le_refl _, by norm_num [Apu.reset, Pulse.reset]⟩,
    le_refl _, by norm_num [Apu.reset, Triangle.reset], by decide, le_refl _, by norm_num [Apu.reset, Noise.reset],
    by decide, le_refl _, by norm_num [Apu.reset]⟩

end Sys2Proof.Laws
end

