-- ==== Sys2Proof/Laws/Bus.lean ====
section
/-! SUPPORT. The broadcast resolved: exactly one peripheral, or none, answers a CPU-bus access, by region; and what a read or a
write can change at all. -/

namespace Sys2Proof.Laws

open Sys2Proof Sys2Proof.Machine

theorem hostcall_range {a : Word} (h : isHostcallPort a = true) : 0x4020 ≤ a.toNat ∧ a.toNat ≤ 0x7FFF := by
  simp only [isHostcallPort, Bool.and_eq_true, decide_eq_true_eq] at h
  exact h.1

theorem not_hostcall {a : Word} (h : a.toNat < 0x4020 ∨ 0x7FFF < a.toNat) : isHostcallPort a = false := by
  cases hp : isHostcallPort a with
  | false => rfl
  | true => have := hostcall_range hp; omega

theorem ne_of_toNat {a b : Word} (h : a.toNat ≠ b.toNat) : a ≠ b := fun e => h (congrArg BitVec.toNat e)

theorem ctrlPort_toNat : ctrlPort.toNat = 0x4016 := rfl
theorem dmaPort_toNat : dmaPort.toNat = 0x4014 := rfl

theorem ramRead_none {a : Word} (h : 0x1FFF < a.toNat) (s : State) : ramRead a s = none := by
  simp only [ramRead]; rw [if_neg (by omega)]

theorem controllerRead_none {a : Word} (h : a.toNat ≠ 0x4016) (s : State) : controllerRead a s = none := by
  simp only [controllerRead]; rw [if_neg (ne_of_toNat (by rw [ctrlPort_toNat]; exact h))]

theorem hostRead_none {a : Word} (h : isHostcallPort a = false) (s : State) : hostRead a s = none := by
  simp [hostRead, h]

theorem ppuPortRead_none {a : Word} (h : a.toNat < 0x2000 ∨ 0x3FFF < a.toNat) (s : State) : ppuPortRead a s = none := by
  simp only [ppuPortRead]; rw [if_pos h]

theorem apuRead_none {a : Word} (h : a.toNat < 0x4010 ∨ 0x4013 < a.toNat) (h5 : a.toNat ≠ 0x4015) (u : Apu) :
    apuRead a u = none := by
  simp only [apuRead]; rw [if_neg (by omega), if_neg h5]

theorem apuPortRead_none {a : Word} (h : a.toNat < 0x4010 ∨ 0x4013 < a.toNat) (h5 : a.toNat ≠ 0x4015) (s : State) :
    apuPortRead a s = none := by
  simp [apuPortRead, apuRead_none h h5]

theorem cartRead_none {a : Word} (h : a.toNat < 0x8000) (s : State) : cartRead a s = none := by
  simp only [cartRead]; rw [if_pos h]

/-- The read broadcast, written out. -/
theorem rd_eq (a : Word) (s : State) :
    rd a s = ([ramRead, controllerRead, hostRead, cpuPortRead, ppuPortRead, apuPortRead, cartRead].foldl (readTurn a)
      (false, busDefault, s)).2 := rfl

/-- Work RAM (R430). -/
theorem rd_ram {a : Word} (h : a.toNat ≤ 0x1FFF) (s : State) : rd a s = (Mem.read s.ram (ramIndex a), s) := by
  have h0 : ramRead a s = some (Mem.read s.ram (ramIndex a), s) := by simp only [ramRead]; rw [if_pos h]
  simp [rd_eq, readTurn, h0, controllerRead_none (a := a) (by omega), hostRead_none (not_hostcall (a := a) (by omega)),
    cpuPortRead, ppuPortRead_none (a := a) (by omega), apuPortRead_none (a := a) (by omega) (by omega),
    cartRead_none (a := a) (by omega)]

/-- The PPU's registers (R520). -/
theorem rd_ppu {a : Word} (h1 : 0x2000 ≤ a.toNat) (h2 : a.toNat ≤ 0x3FFF) (s : State) :
    rd a s = (ppuPortRead a s).getD (busDefault, s) := by
  simp only [rd_eq, readTurn, List.foldl_cons, List.foldl_nil, ramRead_none (a := a) (by omega),
    controllerRead_none (a := a) (by omega), hostRead_none (not_hostcall (a := a) (by omega)), cpuPortRead,
    apuPortRead_none (a := a) (by omega) (by omega), cartRead_none (a := a) (by omega)]
  cases ppuPortRead a s <;> rfl

/-- The APU's registers and the other ports below the controller's (R601). -/
theorem rd_apu {a : Word} (h1 : 0x4000 ≤ a.toNat) (h2 : a.toNat ≤ 0x4015) (s : State) :
    rd a s = (apuPortRead a s).getD (busDefault, s) := by
  simp only [rd_eq, readTurn, List.foldl_cons, List.foldl_nil, ramRead_none (a := a) (by omega),
    controllerRead_none (a := a) (by omega), hostRead_none (not_hostcall (a := a) (by omega)), cpuPortRead,
    ppuPortRead_none (a := a) (by omega), cartRead_none (a := a) (by omega)]
  cases apuPortRead a s <;> rfl

/-- The controller port (R442). -/
theorem rd_ctrl (s : State) : rd ctrlPort s =
    (if s.ctrlShift.getLsbD 7 then 0x01 else 0x00, { s with ctrlShift := s.ctrlShift <<< 1 }) := by
  have hc := ctrlPort_toNat
  have h0 : controllerRead ctrlPort s =
      some (if s.ctrlShift.getLsbD 7 then 0x01 else 0x00, { s with ctrlShift := s.ctrlShift <<< 1 }) := by
    simp [controllerRead]
  simp only [rd_eq, readTurn, List.foldl_cons, List.foldl_nil, ramRead_none (a := ctrlPort) (by omega), h0,
    hostRead_none (not_hostcall (a := ctrlPort) (by omega)), cpuPortRead, ppuPortRead_none (a := ctrlPort) (by omega),
    apuPortRead_none (a := ctrlPort) (by omega) (by omega), cartRead_none (a := ctrlPort) (by omega)]

/-- The host-call port (R450). -/
theorem rd_host {a : Word} (h : isHostcallPort a = true) (s : State) : rd a s = (s.hc.ret, s) := by
  have hr := hostcall_range h
  have h0 : hostRead a s = some (s.hc.ret, s) := by simp [hostRead, h]
  simp only [rd_eq, readTurn, List.foldl_cons, List.foldl_nil, ramRead_none (a := a) (by omega),
    controllerRead_none (a := a) (by omega), h0, cpuPortRead, ppuPortRead_none (a := a) (by omega),
    apuPortRead_none (a := a) (by omega) (by omega), cartRead_none (a := a) (by omega)]

/-- No peripheral answers (R98). -/
theorem rd_unmapped {a : Word} (h1 : 0x4017 ≤ a.toNat) (h2 : a.toNat ≤ 0x7FFF) (hp : isHostcallPort a = false)
    (s : State) : rd a s = (busDefault, s) := by
  simp only [rd_eq, readTurn, List.foldl_cons, List.foldl_nil, ramRead_none (a := a) (by omega),
    controllerRead_none (a := a) (by omega), hostRead_none hp, cpuPortRead, ppuPortRead_none (a := a) (by omega),
    apuPortRead_none (a := a) (by omega) (by omega), cartRead_none (a := a) (by omega)]

/-- Program storage (R500). -/
theorem rd_cart {a : Word} (h : 0x8000 ≤ a.toNat) (s : State) :
    rd a s = (Mem.read s.cart.prg (prgIndex s.cart.prgBanks s.mp a), s) := by
  have h0 : cartRead a s = some (Mem.read s.cart.prg (prgIndex s.cart.prgBanks s.mp a), s) := by
    simp only [cartRead]; rw [if_neg (by omega)]
  simp only [rd_eq, readTurn, List.foldl_cons, List.foldl_nil, ramRead_none (a := a) (by omega),
    controllerRead_none (a := a) (by omega), hostRead_none (not_hostcall (a := a) (by omega)), cpuPortRead,
    ppuPortRead_none (a := a) (by omega), apuPortRead_none (a := a) (by omega) (by omega), h0]

/-- A region split of the CPU bus. -/
theorem bus_regions (a : Word) :
    a.toNat ≤ 0x1FFF ∨ (0x2000 ≤ a.toNat ∧ a.toNat ≤ 0x3FFF) ∨ (0x4000 ≤ a.toNat ∧ a.toNat ≤ 0x4015) ∨
      a = ctrlPort ∨ isHostcallPort a = true ∨
      (0x4017 ≤ a.toNat ∧ a.toNat ≤ 0x7FFF ∧ isHostcallPort a = false) ∨ 0x8000 ≤ a.toNat := by
  by_cases hc : a.toNat = 0x4016
  · exact .inr (.inr (.inr (.inl (BitVec.eq_of_toNat_eq (hc.trans ctrlPort_toNat.symm)))))
  · cases hp : isHostcallPort a with
    | true => simp
    | false => simp; omega

/-- Code and data in work RAM and program storage read without side effect, as `peek` says. -/
theorem rd_storable {a : Word} (h : a.toNat ≤ 0x1FFF ∨ 0x8000 ≤ a.toNat) (s : State) : rd a s = (peek a s, s) := by
  rcases h with h | h
  · rw [rd_ram h]; simp [peek, h]
  · rw [rd_cart h]; simp only [peek]; rw [if_neg (by omega), if_neg (by omega)]

end Sys2Proof.Laws
end

