-- ==== Sys2Proof/Laws/State.lean ====
section
/-! SUPPORT. What each register update leaves in each field of State, one lemma per field per update. -/

namespace Sys2Proof.Laws

open Sys2Proof Sys2Proof.Machine

@[simp] theorem setA_cpu (v : Byte) (s : State) : (setA v s).cpu = { s.cpu with a := v } := rfl
@[simp] theorem setA_cpuDiv (v : Byte) (s : State) : (setA v s).cpuDiv = s.cpuDiv := rfl
@[simp] theorem setA_ram (v : Byte) (s : State) : (setA v s).ram = s.ram := rfl
@[simp] theorem setA_ctrlShift (v : Byte) (s : State) : (setA v s).ctrlShift = s.ctrlShift := rfl
@[simp] theorem setA_hc (v : Byte) (s : State) : (setA v s).hc = s.hc := rfl
@[simp] theorem setA_cart (v : Byte) (s : State) : (setA v s).cart = s.cart := rfl
@[simp] theorem setA_mp (v : Byte) (s : State) : (setA v s).mp = s.mp := rfl
@[simp] theorem setA_ppu (v : Byte) (s : State) : (setA v s).ppu = s.ppu := rfl
@[simp] theorem setA_apu (v : Byte) (s : State) : (setA v s).apu = s.apu := rfl
@[simp] theorem setA_draws (v : Byte) (s : State) : (setA v s).draws = s.draws := rfl

@[simp] theorem setX_cpu (v : Byte) (s : State) : (setX v s).cpu = { s.cpu with x := v } := rfl
@[simp] theorem setX_cpuDiv (v : Byte) (s : State) : (setX v s).cpuDiv = s.cpuDiv := rfl
@[simp] theorem setX_ram (v : Byte) (s : State) : (setX v s).ram = s.ram := rfl
@[simp] theorem setX_ctrlShift (v : Byte) (s : State) : (setX v s).ctrlShift = s.ctrlShift := rfl
@[simp] theorem setX_hc (v : Byte) (s : State) : (setX v s).hc = s.hc := rfl
@[simp] theorem setX_cart (v : Byte) (s : State) : (setX v s).cart = s.cart := rfl
@[simp] theorem setX_mp (v : Byte) (s : State) : (setX v s).mp = s.mp := rfl
@[simp] theorem setX_ppu (v : Byte) (s : State) : (setX v s).ppu = s.ppu := rfl
@[simp] theorem setX_apu (v : Byte) (s : State) : (setX v s).apu = s.apu := rfl
@[simp] theorem setX_draws (v : Byte) (s : State) : (setX v s).draws = s.draws := rfl

@[simp] theorem setY_cpu (v : Byte) (s : State) : (setY v s).cpu = { s.cpu with y := v } := rfl
@[simp] theorem setY_cpuDiv (v : Byte) (s : State) : (setY v s).cpuDiv = s.cpuDiv := rfl
@[simp] theorem setY_ram (v : Byte) (s : State) : (setY v s).ram = s.ram := rfl
@[simp] theorem setY_ctrlShift (v : Byte) (s : State) : (setY v s).ctrlShift = s.ctrlShift := rfl
@[simp] theorem setY_hc (v : Byte) (s : State) : (setY v s).hc = s.hc := rfl
@[simp] theorem setY_cart (v : Byte) (s : State) : (setY v s).cart = s.cart := rfl
@[simp] theorem setY_mp (v : Byte) (s : State) : (setY v s).mp = s.mp := rfl
@[simp] theorem setY_ppu (v : Byte) (s : State) : (setY v s).ppu = s.ppu := rfl
@[simp] theorem setY_apu (v : Byte) (s : State) : (setY v s).apu = s.apu := rfl
@[simp] theorem setY_draws (v : Byte) (s : State) : (setY v s).draws = s.draws := rfl

@[simp] theorem setS_cpu (v : Byte) (s : State) : (setS v s).cpu = { s.cpu with s := v } := rfl
@[simp] theorem setS_cpuDiv (v : Byte) (s : State) : (setS v s).cpuDiv = s.cpuDiv := rfl
@[simp] theorem setS_ram (v : Byte) (s : State) : (setS v s).ram = s.ram := rfl
@[simp] theorem setS_ctrlShift (v : Byte) (s : State) : (setS v s).ctrlShift = s.ctrlShift := rfl
@[simp] theorem setS_hc (v : Byte) (s : State) : (setS v s).hc = s.hc := rfl
@[simp] theorem setS_cart (v : Byte) (s : State) : (setS v s).cart = s.cart := rfl
@[simp] theorem setS_mp (v : Byte) (s : State) : (setS v s).mp = s.mp := rfl
@[simp] theorem setS_ppu (v : Byte) (s : State) : (setS v s).ppu = s.ppu := rfl
@[simp] theorem setS_apu (v : Byte) (s : State) : (setS v s).apu = s.apu := rfl
@[simp] theorem setS_draws (v : Byte) (s : State) : (setS v s).draws = s.draws := rfl

@[simp] theorem setPc_cpu (v : Word) (s : State) : (setPc v s).cpu = { s.cpu with pc := v } := rfl
@[simp] theorem setPc_cpuDiv (v : Word) (s : State) : (setPc v s).cpuDiv = s.cpuDiv := rfl
@[simp] theorem setPc_ram (v : Word) (s : State) : (setPc v s).ram = s.ram := rfl
@[simp] theorem setPc_ctrlShift (v : Word) (s : State) : (setPc v s).ctrlShift = s.ctrlShift := rfl
@[simp] theorem setPc_hc (v : Word) (s : State) : (setPc v s).hc = s.hc := rfl
@[simp] theorem setPc_cart (v : Word) (s : State) : (setPc v s).cart = s.cart := rfl
@[simp] theorem setPc_mp (v : Word) (s : State) : (setPc v s).mp = s.mp := rfl
@[simp] theorem setPc_ppu (v : Word) (s : State) : (setPc v s).ppu = s.ppu := rfl
@[simp] theorem setPc_apu (v : Word) (s : State) : (setPc v s).apu = s.apu := rfl
@[simp] theorem setPc_draws (v : Word) (s : State) : (setPc v s).draws = s.draws := rfl

@[simp] theorem setP_cpu (p : Status) (s : State) : (setP p s).cpu = { s.cpu with p := p } := rfl
@[simp] theorem setP_cpuDiv (p : Status) (s : State) : (setP p s).cpuDiv = s.cpuDiv := rfl
@[simp] theorem setP_ram (p : Status) (s : State) : (setP p s).ram = s.ram := rfl
@[simp] theorem setP_ctrlShift (p : Status) (s : State) : (setP p s).ctrlShift = s.ctrlShift := rfl
@[simp] theorem setP_hc (p : Status) (s : State) : (setP p s).hc = s.hc := rfl
@[simp] theorem setP_cart (p : Status) (s : State) : (setP p s).cart = s.cart := rfl
@[simp] theorem setP_mp (p : Status) (s : State) : (setP p s).mp = s.mp := rfl
@[simp] theorem setP_ppu (p : Status) (s : State) : (setP p s).ppu = s.ppu := rfl
@[simp] theorem setP_apu (p : Status) (s : State) : (setP p s).apu = s.apu := rfl
@[simp] theorem setP_draws (p : Status) (s : State) : (setP p s).draws = s.draws := rfl

@[simp] theorem setPending_cpu (n : Nat) (s : State) : (setPending n s).cpu = { s.cpu with pending := n } := rfl
@[simp] theorem setPending_cpuDiv (n : Nat) (s : State) : (setPending n s).cpuDiv = s.cpuDiv := rfl
@[simp] theorem setPending_ram (n : Nat) (s : State) : (setPending n s).ram = s.ram := rfl
@[simp] theorem setPending_ctrlShift (n : Nat) (s : State) : (setPending n s).ctrlShift = s.ctrlShift := rfl
@[simp] theorem setPending_hc (n : Nat) (s : State) : (setPending n s).hc = s.hc := rfl
@[simp] theorem setPending_cart (n : Nat) (s : State) : (setPending n s).cart = s.cart := rfl
@[simp] theorem setPending_mp (n : Nat) (s : State) : (setPending n s).mp = s.mp := rfl
@[simp] theorem setPending_ppu (n : Nat) (s : State) : (setPending n s).ppu = s.ppu := rfl
@[simp] theorem setPending_apu (n : Nat) (s : State) : (setPending n s).apu = s.apu := rfl
@[simp] theorem setPending_draws (n : Nat) (s : State) : (setPending n s).draws = s.draws := rfl

@[simp] theorem setNmiPending_cpu (b : Bool) (s : State) : (setNmiPending b s).cpu = { s.cpu with nmiPending := b } := rfl
@[simp] theorem setNmiPending_cpuDiv (b : Bool) (s : State) : (setNmiPending b s).cpuDiv = s.cpuDiv := rfl
@[simp] theorem setNmiPending_ram (b : Bool) (s : State) : (setNmiPending b s).ram = s.ram := rfl
@[simp] theorem setNmiPending_ctrlShift (b : Bool) (s : State) : (setNmiPending b s).ctrlShift = s.ctrlShift := rfl
@[simp] theorem setNmiPending_hc (b : Bool) (s : State) : (setNmiPending b s).hc = s.hc := rfl
@[simp] theorem setNmiPending_cart (b : Bool) (s : State) : (setNmiPending b s).cart = s.cart := rfl
@[simp] theorem setNmiPending_mp (b : Bool) (s : State) : (setNmiPending b s).mp = s.mp := rfl
@[simp] theorem setNmiPending_ppu (b : Bool) (s : State) : (setNmiPending b s).ppu = s.ppu := rfl
@[simp] theorem setNmiPending_apu (b : Bool) (s : State) : (setNmiPending b s).apu = s.apu := rfl
@[simp] theorem setNmiPending_draws (b : Bool) (s : State) : (setNmiPending b s).draws = s.draws := rfl

@[simp] theorem haltCpu_cpu (n : Nat) (s : State) : (haltCpu n s).cpu = { s.cpu with halt := n } := rfl
@[simp] theorem haltCpu_cpuDiv (n : Nat) (s : State) : (haltCpu n s).cpuDiv = s.cpuDiv := rfl
@[simp] theorem haltCpu_ram (n : Nat) (s : State) : (haltCpu n s).ram = s.ram := rfl
@[simp] theorem haltCpu_ctrlShift (n : Nat) (s : State) : (haltCpu n s).ctrlShift = s.ctrlShift := rfl
@[simp] theorem haltCpu_hc (n : Nat) (s : State) : (haltCpu n s).hc = s.hc := rfl
@[simp] theorem haltCpu_cart (n : Nat) (s : State) : (haltCpu n s).cart = s.cart := rfl
@[simp] theorem haltCpu_mp (n : Nat) (s : State) : (haltCpu n s).mp = s.mp := rfl
@[simp] theorem haltCpu_ppu (n : Nat) (s : State) : (haltCpu n s).ppu = s.ppu := rfl
@[simp] theorem haltCpu_apu (n : Nat) (s : State) : (haltCpu n s).apu = s.apu := rfl
@[simp] theorem haltCpu_draws (n : Nat) (s : State) : (haltCpu n s).draws = s.draws := rfl

@[simp] theorem skip_cpu (n : Nat) (s : State) : (skip n s).cpu = { s.cpu with pc := s.cpu.pc + BitVec.ofNat 16 n } := rfl
@[simp] theorem skip_cpuDiv (n : Nat) (s : State) : (skip n s).cpuDiv = s.cpuDiv := rfl
@[simp] theorem skip_ram (n : Nat) (s : State) : (skip n s).ram = s.ram := rfl
@[simp] theorem skip_ctrlShift (n : Nat) (s : State) : (skip n s).ctrlShift = s.ctrlShift := rfl
@[simp] theorem skip_hc (n : Nat) (s : State) : (skip n s).hc = s.hc := rfl
@[simp] theorem skip_cart (n : Nat) (s : State) : (skip n s).cart = s.cart := rfl
@[simp] theorem skip_mp (n : Nat) (s : State) : (skip n s).mp = s.mp := rfl
@[simp] theorem skip_ppu (n : Nat) (s : State) : (skip n s).ppu = s.ppu := rfl
@[simp] theorem skip_apu (n : Nat) (s : State) : (skip n s).apu = s.apu := rfl
@[simp] theorem skip_draws (n : Nat) (s : State) : (skip n s).draws = s.draws := rfl

@[simp] theorem retire_cpu (n : Nat) (s : State) : (retire n s).cpu = { s.cpu with pending := n - 1 } := rfl
@[simp] theorem retire_cpuDiv (n : Nat) (s : State) : (retire n s).cpuDiv = s.cpuDiv := rfl
@[simp] theorem retire_ram (n : Nat) (s : State) : (retire n s).ram = s.ram := rfl
@[simp] theorem retire_ctrlShift (n : Nat) (s : State) : (retire n s).ctrlShift = s.ctrlShift := rfl
@[simp] theorem retire_hc (n : Nat) (s : State) : (retire n s).hc = s.hc := rfl
@[simp] theorem retire_cart (n : Nat) (s : State) : (retire n s).cart = s.cart := rfl
@[simp] theorem retire_mp (n : Nat) (s : State) : (retire n s).mp = s.mp := rfl
@[simp] theorem retire_ppu (n : Nat) (s : State) : (retire n s).ppu = s.ppu := rfl
@[simp] theorem retire_apu (n : Nat) (s : State) : (retire n s).apu = s.apu := rfl
@[simp] theorem retire_draws (n : Nat) (s : State) : (retire n s).draws = s.draws := rfl

end Sys2Proof.Laws
end

