-- ==== Sys2Proof/Laws/Writes.lean ====
section
/-! SUPPORT. The write broadcast resolved, by region. -/

namespace Sys2Proof.Laws

open Sys2Proof Sys2Proof.Machine

theorem ramWrite_none {a : Word} (h : 0x1FFF < a.toNat) (v : Byte) (s : State) : ramWrite a v s = none := by
  simp only [ramWrite]; rw [if_neg (by omega)]

theorem controllerWrite_none {a : Word} (h : a.toNat ≠ 0x4016) (v : Byte) (s : State) :
    controllerWrite a v s = none := by
  simp only [controllerWrite]; rw [if_neg (ne_of_toNat (by rw [ctrlPort_toNat]; exact h))]

theorem hostWrite_none {a : Word} (h : isHostcallPort a = false) (v : Byte) (s : State) : hostWrite a v s = none := by
  simp [hostWrite, h]

theorem cpuPortWrite_none {a : Word} (h : a.toNat ≠ 0x4014) (v : Byte) (s : State) : cpuPortWrite a v s = none := by
  simp only [cpuPortWrite]; rw [if_neg (ne_of_toNat (by rw [dmaPort_toNat]; exact h))]

theorem ppuPortWrite_none {a : Word} (h : a.toNat < 0x2000 ∨ 0x3FFF < a.toNat) (v : Byte) (s : State) :
    ppuPortWrite a v s = none := by
  simp only [ppuPortWrite]; rw [if_pos h]

theorem apuWrite_none {a : Word} (h : a.toNat < 0x4000 ∨ 0x4013 < a.toNat) (h5 : a.toNat ≠ 0x4015)
    (h7 : a.toNat ≠ 0x4017) (v : Byte) (u : Apu) : apuWrite a v u = none := by
  simp only [apuWrite]
  rw [if_neg (by omega), if_neg (by omega), if_neg (by omega), if_neg (by omega), if_neg (by omega), if_neg h5,
    if_neg h7]

theorem apuPortWrite_none {a : Word} (h : a.toNat < 0x4000 ∨ 0x4013 < a.toNat) (h5 : a.toNat ≠ 0x4015)
    (h7 : a.toNat ≠ 0x4017) (v : Byte) (s : State) : apuPortWrite a v s = none := by
  simp [apuPortWrite, apuWrite_none h h5 h7]

theorem cartWrite_none {a : Word} (h : a.toNat < 0x8000) (v : Byte) (s : State) : cartWrite a v s = none := by
  simp only [cartWrite]; rw [if_pos h]

/-- The write broadcast, written out. -/
theorem wr_eq (a : Word) (v : Byte) (s : State) :
    wr a v s = ([ramWrite, controllerWrite, hostWrite, cpuPortWrite, ppuPortWrite, apuPortWrite, cartWrite].foldl
      (writeTurn a v) (false, s)).2 := rfl

/-- Work RAM (R431). -/
theorem wr_ram {a : Word} (h : a.toNat ≤ 0x1FFF) (v : Byte) (s : State) :
    wr a v s = { s with ram := Mem.write s.ram (ramIndex a) v } := by
  have h0 : ramWrite a v s = some { s with ram := Mem.write s.ram (ramIndex a) v } := by
    simp only [ramWrite]; rw [if_pos h]
  simp only [wr_eq, writeTurn, List.foldl_cons, List.foldl_nil, h0, controllerWrite_none (a := a) (by omega),
    hostWrite_none (not_hostcall (a := a) (by omega)), cpuPortWrite_none (a := a) (by omega),
    ppuPortWrite_none (a := a) (by omega), apuPortWrite_none (a := a) (by omega) (by omega) (by omega),
    cartWrite_none (a := a) (by omega)]

/-- The PPU's registers (R520). -/
theorem wr_ppu {a : Word} (h1 : 0x2000 ≤ a.toNat) (h2 : a.toNat ≤ 0x3FFF) (v : Byte) (s : State) :
    wr a v s = (ppuPortWrite a v s).getD s := by
  simp only [wr_eq, writeTurn, List.foldl_cons, List.foldl_nil, ramWrite_none (a := a) (by omega),
    controllerWrite_none (a := a) (by omega), hostWrite_none (not_hostcall (a := a) (by omega)),
    cpuPortWrite_none (a := a) (by omega), apuPortWrite_none (a := a) (by omega) (by omega) (by omega),
    cartWrite_none (a := a) (by omega)]
  cases ppuPortWrite a v s <;> rfl

/-- The APU's registers (R600). -/
theorem wr_apu {a : Word} (h1 : 0x4000 ≤ a.toNat) (h2 : a.toNat ≤ 0x4017) (h4 : a.toNat ≠ 0x4014)
    (h6 : a.toNat ≠ 0x4016) (v : Byte) (s : State) : wr a v s = (apuPortWrite a v s).getD s := by
  simp only [wr_eq, writeTurn, List.foldl_cons, List.foldl_nil, ramWrite_none (a := a) (by omega),
    controllerWrite_none h6, hostWrite_none (not_hostcall (a := a) (by omega)), cpuPortWrite_none h4,
    ppuPortWrite_none (a := a) (by omega), cartWrite_none (a := a) (by omega)]
  cases apuPortWrite a v s <;> rfl

/-- The DMA port (R406). -/
theorem wr_dma (v : Byte) (s : State) :
    wr dmaPort v s =
      { haltCpu (dmaStall (oamDma v s).draws) (oamDma v s) with draws := (oamDma v s).draws + 1 } := by
  have hd := dmaPort_toNat
  have h0 : cpuPortWrite dmaPort v s =
      some { haltCpu (dmaStall (oamDma v s).draws) (oamDma v s) with draws := (oamDma v s).draws + 1 } := by
    simp only [cpuPortWrite]; rfl
  simp only [wr_eq, writeTurn, List.foldl_cons, List.foldl_nil, ramWrite_none (a := dmaPort) (by omega),
    controllerWrite_none (a := dmaPort) (by omega), hostWrite_none (not_hostcall (a := dmaPort) (by omega)), h0,
    ppuPortWrite_none (a := dmaPort) (by omega), apuPortWrite_none (a := dmaPort) (by omega) (by omega) (by omega),
    cartWrite_none (a := dmaPort) (by omega)]

/-- The controller port (R440). -/
theorem wr_ctrl (v : Byte) (s : State) :
    wr ctrlPort v s =
      if v.getLsbD 0 then { s with ctrlShift := Config.buttons s.draws, draws := s.draws + 1 } else s := by
  have hd := ctrlPort_toNat
  have h0 : controllerWrite ctrlPort v s =
      some (if v.getLsbD 0 then { s with ctrlShift := Config.buttons s.draws, draws := s.draws + 1 } else s) := by
    simp only [controllerWrite]; rfl
  simp only [wr_eq, writeTurn, List.foldl_cons, List.foldl_nil, ramWrite_none (a := ctrlPort) (by omega), h0,
    hostWrite_none (not_hostcall (a := ctrlPort) (by omega)), cpuPortWrite_none (a := ctrlPort) (by omega),
    ppuPortWrite_none (a := ctrlPort) (by omega), apuPortWrite_none (a := ctrlPort) (by omega) (by omega) (by omega),
    cartWrite_none (a := ctrlPort) (by omega)]

/-- What one write to the host-call port does, by the bridge's phase (R446 to R449). -/
theorem wr_host {a : Word} (h : isHostcallPort a = true) (v : Byte) (s : State) :
    wr a v s = match s.hc.phase with
      | .idle => hostWriteIdle v s
      | .collecting => hostWriteCollecting v s
      | .inCall => s := by
  have hr := hostcall_range h
  simp only [wr_eq, writeTurn, List.foldl_cons, List.foldl_nil, ramWrite_none (a := a) (by omega),
    controllerWrite_none (a := a) (by omega), hostWrite, h, if_true, cpuPortWrite_none (a := a) (by omega),
    ppuPortWrite_none (a := a) (by omega), apuPortWrite_none (a := a) (by omega) (by omega) (by omega),
    cartWrite_none (a := a) (by omega)]
  all_goals rfl

/-- No peripheral answers (R98). -/
theorem wr_unmapped {a : Word} (h1 : 0x4018 ≤ a.toNat) (h2 : a.toNat ≤ 0x7FFF) (hp : isHostcallPort a = false)
    (v : Byte) (s : State) : wr a v s = s := by
  simp only [wr_eq, writeTurn, List.foldl_cons, List.foldl_nil, ramWrite_none (a := a) (by omega),
    controllerWrite_none (a := a) (by omega), hostWrite_none hp, cpuPortWrite_none (a := a) (by omega),
    ppuPortWrite_none (a := a) (by omega), apuPortWrite_none (a := a) (by omega) (by omega) (by omega),
    cartWrite_none (a := a) (by omega)]

/-- The mapper's port: every address of program storage (R486). -/
theorem wr_cart {a : Word} (h : 0x8000 ≤ a.toNat) (v : Byte) (s : State) :
    wr a v s = { s with mp := mapperWrite s.cart.prgBanks a v s.mp } := by
  have h0 : cartWrite a v s = some { s with mp := mapperWrite s.cart.prgBanks a v s.mp } := by
    simp only [cartWrite]; rw [if_neg (by omega)]
  simp only [wr_eq, writeTurn, List.foldl_cons, List.foldl_nil, ramWrite_none (a := a) (by omega),
    controllerWrite_none (a := a) (by omega), hostWrite_none (not_hostcall (a := a) (by omega)),
    cpuPortWrite_none (a := a) (by omega), ppuPortWrite_none (a := a) (by omega),
    apuPortWrite_none (a := a) (by omega) (by omega) (by omega), h0]

/-- A region split of CPU-bus writes. -/
theorem write_regions (a : Word) :
    a.toNat ≤ 0x1FFF ∨ (0x2000 ≤ a.toNat ∧ a.toNat ≤ 0x3FFF) ∨
      (0x4000 ≤ a.toNat ∧ a.toNat ≤ 0x4017 ∧ a.toNat ≠ 0x4014 ∧ a.toNat ≠ 0x4016) ∨ a = dmaPort ∨ a = ctrlPort ∨
      isHostcallPort a = true ∨ (0x4018 ≤ a.toNat ∧ a.toNat ≤ 0x7FFF ∧ isHostcallPort a = false) ∨
      0x8000 ≤ a.toNat := by
  by_cases hc : a.toNat = 0x4016
  · exact .inr (.inr (.inr (.inr (.inl (BitVec.eq_of_toNat_eq (hc.trans ctrlPort_toNat.symm))))))
  by_cases hd : a.toNat = 0x4014
  · exact .inr (.inr (.inr (.inl (BitVec.eq_of_toNat_eq (hd.trans dmaPort_toNat.symm)))))
  cases hp : isHostcallPort a with
  | true => simp
  | false => simp; omega

end Sys2Proof.Laws
end

