-- ==== Sys2Proof/Laws/Frames.lean ====
section
/-! SUPPORT. What reads, writes, operands and the stack can change at all: one lemma per shared operation. -/

namespace Sys2Proof.Laws

open Sys2Proof Sys2Proof.Machine Sys2Proof.Safety

theorem readKeeps_refl (s : State) : ReadKeeps s s := ⟨rfl, rfl, rfl, rfl, rfl, rfl, rfl⟩

theorem readKeeps_trans {s t u : State} (h : ReadKeeps s t) (k : ReadKeeps t u) : ReadKeeps s u :=
  ⟨k.cpu.trans h.cpu, k.cpuDiv.trans h.cpuDiv, k.ram.trans h.ram, k.hc.trans h.hc, k.cart.trans h.cart,
    k.mp.trans h.mp, by rw [k.ppu, h.ppu]⟩

/-- No byte reads otherwise after reads. -/
theorem readKeeps_bytes {s t : State} (h : ReadKeeps s t) : BytesKept s t :=
  ⟨fun k => by rw [h.ram], fun k => by rw [h.cart], fun k => by rw [h.cart], fun k => by rw [h.ppu],
    fun k => by rw [h.ppu], fun k => by rw [h.ppu]⟩

theorem bytesKept_refl (s : State) : BytesKept s s :=
  ⟨fun _ => rfl, fun _ => rfl, fun _ => rfl, fun _ => rfl, fun _ => rfl, fun _ => rfl⟩

/-- A PPU-bus read, by region (R100, R103, R504). -/
theorem busRead_ppu (b : PpuAddr) (s : State) :
    (busRead ppuReaders b s).2 =
      (if b.toNat < 0x2000 then Mem.read s.cart.chr b.toNat
      else if b.toNat < 0x3F00 then Mem.read s.ppu.nt (ntIndex s.mp b)
      else Mem.read s.ppu.pal (palIndex b), s) := by
  by_cases h1 : b.toNat < 0x2000
  · have hv : vramRead b s = none := by simp [vramRead, h1]
    have hc : cartPpuRead b s = some (Mem.read s.cart.chr b.toNat, s) := by
      simp only [cartPpuRead]; rw [if_pos (by omega)]
    simp only [busRead, ppuReaders, List.foldl_cons, List.foldl_nil, readTurn, hv, hc, h1, if_true]
  · have hc : ∀ t, cartPpuRead b t = none := fun t => by simp only [cartPpuRead]; rw [if_neg (by omega)]
    by_cases h2 : b.toNat < 0x3F00
    · have hv : vramRead b s = some (Mem.read s.ppu.nt (ntIndex s.mp b), s) := by simp [vramRead, h1, h2]
      simp only [busRead, ppuReaders, List.foldl_cons, List.foldl_nil, readTurn, hv, hc, h1, h2, if_true, if_false]
    · have hv : vramRead b s = some (Mem.read s.ppu.pal (palIndex b), s) := by simp [vramRead, h1, h2]
      simp only [busRead, ppuReaders, List.foldl_cons, List.foldl_nil, readTurn, hv, hc, h1, h2, if_false]

/-- A PPU-bus read changes nothing (R100). -/
theorem ppuBusRead_state (a : Word) (s : State) : (ppuBusRead a s).2 = s := by
  simp only [ppuBusRead, busRead_ppu]

/-- A read of a PPU register (R520, R521). -/
theorem ppuPortRead_keeps {a : Word} {s : State} {v : Byte} {t : State} (h : ppuPortRead a s = some (v, t)) :
    ReadKeeps s t := by
  unfold ppuPortRead at h
  split at h
  · cases h
  · split at h
    · cases h; exact ⟨rfl, rfl, rfl, rfl, rfl, rfl, rfl⟩
    · cases h; exact readKeeps_refl s
    · simp only [readData, stepPpuAddr, ppuBusRead_state, Option.some.injEq, Prod.mk.injEq] at h
      obtain ⟨-, rfl⟩ := h
      exact ⟨rfl, rfl, rfl, rfl, rfl, rfl, rfl⟩
    · cases h

theorem audioTurn_keeps (s : State) : ReadKeeps s (audioTurn s) := ⟨rfl, rfl, rfl, rfl, rfl, rfl, rfl⟩

theorem apuPortRead_keeps {a : Word} {s : State} {v : Byte} {t : State} (h : apuPortRead a s = some (v, t)) :
    ReadKeeps s t := by
  unfold apuPortRead at h
  split at h
  · cases h
  · cases h; exact audioTurn_keeps s

/-- One CPU-bus read (R94). -/
theorem rd_keeps (a : Word) (s : State) : ReadKeeps s (rd a s).2 := by
  rcases bus_regions a with h | ⟨h1, h2⟩ | ⟨h1, h2⟩ | rfl | h | ⟨h1, h2, h3⟩ | h
  · rw [rd_ram h]; exact readKeeps_refl s
  · rw [rd_ppu h1 h2]
    cases hr : ppuPortRead a s with
    | none => exact readKeeps_refl s
    | some r => exact ppuPortRead_keeps hr
  · rw [rd_apu h1 h2]
    cases hr : apuPortRead a s with
    | none => exact readKeeps_refl s
    | some r => exact apuPortRead_keeps hr
  · rw [rd_ctrl]; exact ⟨rfl, rfl, rfl, rfl, rfl, rfl, rfl⟩
  · rw [rd_host h]; exact readKeeps_refl s
  · rw [rd_unmapped h1 h2 h3]; exact readKeeps_refl s
  · rw [rd_cart h]; exact readKeeps_refl s

@[simp] theorem rd_cpu (a : Word) (s : State) : (rd a s).2.cpu = s.cpu := (rd_keeps a s).cpu

/-- Two reads (R108). -/
theorem rdPair_keeps (al ah : Word) (s : State) : ReadKeeps s (rdPair al ah s).2 :=
  readKeeps_trans (rd_keeps al s) (rd_keeps ah _)

@[simp] theorem rdPair_cpu (al ah : Word) (s : State) : (rdPair al ah s).2.cpu = s.cpu := (rdPair_keeps al ah s).cpu

/-- The reads of an addressing mode (R150 to R157). -/
theorem effAddr_keeps (m : Mode) (s : State) : ReadKeeps s (effAddr m s).st := by
  cases m <;> first | exact readKeeps_refl s | exact rdPair_keeps _ _ s

@[simp] theorem effAddr_cpu (m : Mode) (s : State) : (effAddr m s).st.cpu = s.cpu := (effAddr_keeps m s).cpu

/-- A mode's reads and the operand's (R161). -/
theorem readOperand_keeps (m : Mode) (s : State) : ReadKeeps s (readOperand m s).st :=
  readKeeps_trans (effAddr_keeps m s) (rd_keeps _ _)

@[simp] theorem readOperand_cpu (m : Mode) (s : State) : (readOperand m s).st.cpu = s.cpu := (readOperand_keeps m s).cpu

/-- A vector lies in program storage, so reading one has no side effect (R99, R502). -/
theorem rd16_storable {a : Word} (h1 : 0x8000 ≤ a.toNat) (h2 : 0x8000 ≤ (a + 1).toNat) (s : State) :
    rd16 a s = (pair (peek (a + 1) s) (peek a s), s) := by
  simp only [rd16, rdPair, rd_storable (.inr h1), rd_storable (.inr h2)]

theorem stackAddr_toNat (v : Byte) : (stackAddr v).toNat = 256 + v.toNat := by
  have := v.isLt
  simp [stackAddr, BitVec.toNat_add]
  omega

theorem stackAddr_ram (v : Byte) : (stackAddr v).toNat ≤ 0x1FFF := by
  have := v.isLt
  rw [stackAddr_toNat]; omega

theorem ramIndex_stack (v : Byte) : ramIndex (stackAddr v) = 256 + v.toNat := by
  have := v.isLt
  simp only [ramIndex, stackAddr_toNat]; omega

/-- A push: one byte of page 1, and `S` (R160). -/
theorem push_eq (v : Byte) (s : State) :
    push v s =
      { s with ram := Mem.write s.ram (256 + s.cpu.s.toNat) v, cpu := { s.cpu with s := s.cpu.s - 1 } } := by
  simp only [push, wr_ram (stackAddr_ram _), ramIndex_stack, setS]

/-- A pull: one byte of page 1, and `S` (R160). -/
theorem pull_eq (s : State) :
    pull s =
      (Mem.read s.ram (256 + (s.cpu.s + 1).toNat), { s with cpu := { s.cpu with s := s.cpu.s + 1 } }) := by
  simp only [pull, setS, rd_ram (stackAddr_ram _), ramIndex_stack]

theorem pushWord_eq (w : Word) (s : State) :
    pushWord w s =
      { s with
        ram := Mem.write (Mem.write s.ram (256 + s.cpu.s.toNat) (hi w)) (256 + (s.cpu.s - 1).toNat) (lo w)
        cpu := { s.cpu with s := s.cpu.s - 1 - 1 } } := by
  simp only [pushWord, push_eq]

theorem pullWord_eq (s : State) :
    pullWord s =
      (pair (Mem.read s.ram (256 + (s.cpu.s + 1 + 1).toNat)) (Mem.read s.ram (256 + (s.cpu.s + 1).toNat)),
        { s with cpu := { s.cpu with s := s.cpu.s + 1 + 1 } }) := by
  simp only [pullWord, pull_eq]

/-- A byte of program storage seen on the CPU bus does not depend on work RAM or the CPU. -/
theorem peek_cart {a : Word} (h : 0x8000 ≤ a.toNat) (s : State) :
    peek a s = Mem.read s.cart.prg (prgIndex s.cart.prgBanks s.mp a) := by
  simp only [peek]; rw [if_neg (by omega), if_neg (by omega)]

/-- Entering a handler, for a vector in program storage (R710, R322). -/
theorem enterHandler_eq (ret : Word) (b : Bool) {vector : Word} (h1 : 0x8000 ≤ vector.toNat)
    (h2 : 0x8000 ≤ (vector + 1).toNat) (s : State) :
    enterHandler ret b vector s =
      { s with
        ram := Mem.write (Mem.write (Mem.write s.ram (256 + s.cpu.s.toNat) (hi ret)) (256 + (s.cpu.s - 1).toNat)
          (lo ret)) (256 + (s.cpu.s - 1 - 1).toNat) (pByte b s.cpu.p)
        cpu :=
          { s.cpu with
            s := s.cpu.s - 1 - 1 - 1, p := { s.cpu.p with i := true }
            pc := pair (peek (vector + 1) s) (peek vector s) } } := by
  simp only [enterHandler, pushWord_eq, push_eq, setP, rd16_storable h1 h2, setPc, peek_cart h1, peek_cart h2]

/-- Returning from a handler (R323, R713). -/
theorem returnFromInterrupt_eq (s : State) :
    returnFromInterrupt s =
      { s with
        cpu :=
          { s.cpu with
            s := s.cpu.s + 1 + 1 + 1, p := flagsOfByte (Mem.read s.ram (256 + (s.cpu.s + 1).toNat))
            pc := pair (Mem.read s.ram (256 + (s.cpu.s + 1 + 1 + 1).toNat))
              (Mem.read s.ram (256 + (s.cpu.s + 1 + 1).toNat)) } } := by
  simp only [returnFromInterrupt, pull_eq, pullWord_eq, setP, setPc]

/-- A PPU-bus write, by region (R101, R103, R505). -/
theorem busWrite_ppu (b : PpuAddr) (v : Byte) (s : State) :
    (busWrite ppuWriters b v s).2 =
      if b.toNat < 0x2000 then { s with cart := { s.cart with chr := Mem.write s.cart.chr b.toNat v } }
      else if b.toNat < 0x3F00 then { s with ppu := { s.ppu with nt := Mem.write s.ppu.nt (ntIndex s.mp b) v } }
      else { s with ppu := { s.ppu with pal := Mem.write s.ppu.pal (palIndex b) v } } := by
  by_cases h1 : b.toNat < 0x2000
  · have hv : vramWrite b v s = none := by simp [vramWrite, h1]
    have hc : cartPpuWrite b v s = some { s with cart := { s.cart with chr := Mem.write s.cart.chr b.toNat v } } := by
      simp only [cartPpuWrite]; rw [if_pos (by omega)]
    simp only [busWrite, ppuWriters, List.foldl_cons, List.foldl_nil, writeTurn, hv, hc, h1, if_true]
  · have hc : ∀ t, cartPpuWrite b v t = none := fun t => by simp only [cartPpuWrite]; rw [if_neg (by omega)]
    by_cases h2 : b.toNat < 0x3F00
    · have hv : vramWrite b v s =
          some { s with ppu := { s.ppu with nt := Mem.write s.ppu.nt (ntIndex s.mp b) v } } := by
        simp [vramWrite, h1, h2]
      simp only [busWrite, ppuWriters, List.foldl_cons, List.foldl_nil, writeTurn, hv, hc, h1, h2, if_true, if_false]
    · have hv : vramWrite b v s = some { s with ppu := { s.ppu with pal := Mem.write s.ppu.pal (palIndex b) v } } := by
        simp [vramWrite, h1, h2]
      simp only [busWrite, ppuWriters, List.foldl_cons, List.foldl_nil, writeTurn, hv, hc, h1, h2, if_false]

/-- What one write to a PPU register keeps (R520). -/
theorem ppuPortWrite_frame {a : Word} {v : Byte} {s t : State} (h : ppuPortWrite a v s = some t) :
    t.cpu = s.cpu ∧ t.ram = s.ram ∧ t.hc = s.hc ∧ t.mp = s.mp ∧ t.apu = s.apu ∧ t.cpuDiv = s.cpuDiv ∧
      t.cart.prg = s.cart.prg ∧ t.cart.prgBanks = s.cart.prgBanks ∧ t.cart.chrSize = s.cart.chrSize ∧
      (¬ ppuPort 4 a → t.ppu.oam = s.ppu.oam) ∧
      (¬ ppuPort 7 a → t.ppu.nt = s.ppu.nt ∧ t.ppu.pal = s.ppu.pal ∧ t.cart.chr = s.cart.chr) := by
  unfold ppuPortWrite at h
  split at h
  · cases h
  next hr =>
    simp only [not_or, Nat.not_lt] at hr
    obtain rfl := Option.some.inj h
    split
    · simp
    · simp
    · simp
    · simp
    · next h4 => simp [writeOamData, ppuPort, hr, h4]
    · simp [writeScroll]
    · simp [writeAddr]
    · next h0 h1 h2 h3 h4 h5 h6 =>
      simp only [imp_false] at h0 h1 h2 h3 h4 h5 h6
      have h7 : a.toNat % 8 = 7 := by omega
      have hp : ppuPort 7 a := ⟨hr.1, hr.2, h7⟩
      simp only [writeData, stepPpuAddr, ppuBusWrite, busWrite_ppu, hp, not_true, false_implies, and_true]
      split
      · simp
      · split <;> simp

end Sys2Proof.Laws
end

