-- ==== Sys2Proof/Laws/Stores.lean ====
section
/-! SUPPORT. What one CPU-bus write can change: the sprite DMA, the host-call bridge, and the whole write. -/

namespace Sys2Proof.Laws

open Sys2Proof Sys2Proof.Machine Sys2Proof.Safety

/-- What the DMA copy can change at most: what reads can, and OAM (R534). -/
structure DmaKeeps (s t : State) : Prop where
  cpu : t.cpu = s.cpu
  cpuDiv : t.cpuDiv = s.cpuDiv
  ram : t.ram = s.ram
  hc : t.hc = s.hc
  cart : t.cart = s.cart
  mp : t.mp = s.mp
  ppu : t.ppu = { s.ppu with status := t.ppu.status, w := t.ppu.w, addr := t.ppu.addr, oam := t.ppu.oam }

theorem dmaKeeps_refl (s : State) : DmaKeeps s s := ⟨rfl, rfl, rfl, rfl, rfl, rfl, rfl⟩

theorem dmaKeeps_trans {s t u : State} (h : DmaKeeps s t) (k : DmaKeeps t u) : DmaKeeps s u :=
  ⟨k.cpu.trans h.cpu, k.cpuDiv.trans h.cpuDiv, k.ram.trans h.ram, k.hc.trans h.hc, k.cart.trans h.cart,
    k.mp.trans h.mp, by rw [k.ppu, h.ppu]⟩

theorem oamDmaByte_keeps (page : Byte) (s : State) (i : Nat) : DmaKeeps s (oamDmaByte page s i) := by
  have h := rd_keeps (pair page (BitVec.ofNat 8 i)) s
  exact ⟨h.cpu, h.cpuDiv, h.ram, h.hc, h.cart, h.mp, by simp only [oamDmaByte]; rw [h.ppu]⟩

theorem foldl_keeps {α β : Type} {R : β → β → Prop} (refl : ∀ x, R x x) (trans : ∀ {x y z}, R x y → R y z → R x z)
    {f : β → α → β} (h : ∀ x a, R x (f x a)) (l : List α) (x : β) : R x (l.foldl f x) := by
  induction l generalizing x with
  | nil => exact refl x
  | cons a l ih => exact trans (h x a) (ih (f x a))

/-- The whole DMA copy (R534). -/
theorem oamDma_keeps (page : Byte) (s : State) : DmaKeeps s (oamDma page s) :=
  foldl_keeps dmaKeeps_refl dmaKeeps_trans (oamDmaByte_keeps page) _ s

/-- The host-call bridge's writes change work RAM and the bridge only (R447, R448, R452). -/
theorem hostInvoke_eq (s : State) : hostInvoke s = { s with ram := (hostInvoke s).ram, hc := (hostInvoke s).hc } := rfl

theorem hostWriteIdle_eq (v : Byte) (s : State) :
    hostWriteIdle v s = { s with ram := (hostWriteIdle v s).ram, hc := (hostWriteIdle v s).hc } := by
  unfold hostWriteIdle
  split
  · rfl
  · simp only []
    split <;> rfl

theorem hostWriteCollecting_eq (v : Byte) (s : State) :
    hostWriteCollecting v s =
      { s with ram := (hostWriteCollecting v s).ram, hc := (hostWriteCollecting v s).hc } := by
  unfold hostWriteCollecting
  simp only []
  split <;> rfl

/-- A write to the host-call port (R446). -/
theorem wr_host_eq {a : Word} (h : isHostcallPort a = true) (v : Byte) (s : State) :
    wr a v s = { s with ram := (wr a v s).ram, hc := (wr a v s).hc } := by
  rw [wr_host h]
  split
  · exact hostWriteIdle_eq v s
  · exact hostWriteCollecting_eq v s
  · rfl

/-- A write to an APU register changes the APU and the count of free values only (R600). -/
theorem apuPortWrite_eq {a : Word} {v : Byte} {s t : State} (h : apuPortWrite a v s = some t) :
    t = { s with apu := t.apu, draws := t.draws } := by
  unfold apuPortWrite at h
  split at h
  · cases h
  · obtain rfl := Option.some.inj h; rfl

theorem wr_apu_eq {a : Word} (h1 : 0x4000 ≤ a.toNat) (h2 : a.toNat ≤ 0x4017) (h4 : a.toNat ≠ 0x4014)
    (h6 : a.toNat ≠ 0x4016) (v : Byte) (s : State) :
    wr a v s = { s with apu := (wr a v s).apu, draws := (wr a v s).draws } := by
  rw [wr_apu h1 h2 h4 h6]
  cases h : apuPortWrite a v s with
  | none => rfl
  | some t => exact apuPortWrite_eq h

/-- One write changes no CPU field, unless it is to the DMA port (R95, R406). -/
theorem wr_cpu {a : Word} (h : a ≠ dmaPort) (v : Byte) (s : State) : (wr a v s).cpu = s.cpu := by
  rcases write_regions a with h | ⟨h1, h2⟩ | ⟨h1, h2, h4, h6⟩ | rfl | rfl | h | ⟨h1, h2, h3⟩ | h
  · rw [wr_ram h]
  · rw [wr_ppu h1 h2]
    cases hw : ppuPortWrite a v s with
    | none => rfl
    | some t => exact (ppuPortWrite_frame hw).1
  · rw [wr_apu_eq h1 h2 h4 h6]
  · exact absurd rfl h
  · rw [wr_ctrl]; split <;> rfl
  · rw [wr_host_eq h]
  · rw [wr_unmapped h1 h2 h3]
  · rw [wr_cart h]

/-- One write changes at most the halt counter of the CPU (R95, R406). -/
theorem wr_cpu_halt (a : Word) (v : Byte) (s : State) :
    (wr a v s).cpu = { s.cpu with halt := (wr a v s).cpu.halt } := by
  by_cases h : a = dmaPort
  · subst h
    have hk := (oamDma_keeps v s).cpu
    rw [wr_dma]
    simp [hk]
  · rw [wr_cpu h]

/-- Which bytes one CPU-bus write keeps. -/
theorem wr_storeKeeps (a : Word) (v : Byte) (s : State) : StoreKeeps a s (wr a v s) := by
  rcases write_regions a with h | ⟨h1, h2⟩ | ⟨h1, h2, h4, h6⟩ | rfl | rfl | h | ⟨h1, h2, h3⟩ | h
  · rw [wr_ram h]
    exact ⟨fun _ k hk => mem_read_write_ne (hk h) _ _, fun _ _ _ => rfl, fun _ _ => rfl, fun _ _ => rfl,
      fun _ _ => rfl, fun _ => rfl⟩
  · rw [wr_ppu h1 h2]
    cases hw : ppuPortWrite a v s with
    | none => exact ⟨fun _ _ _ => rfl, fun _ _ _ => rfl, fun _ _ => rfl, fun _ _ => rfl, fun _ _ => rfl, fun _ => rfl⟩
    | some t =>
      obtain ⟨-, hram, -, -, -, -, hprg, -, -, hoam, h7⟩ := ppuPortWrite_frame hw
      exact ⟨fun _ k _ => congrArg (Mem.read · k) hram, fun _ h4 k => congrArg (Mem.read · k) (hoam h4),
        fun h k => congrArg (Mem.read · k) (h7 h).1, fun h k => congrArg (Mem.read · k) (h7 h).2.1,
        fun h k => congrArg (Mem.read · k) (h7 h).2.2, fun k => congrArg (Mem.read · k) hprg⟩
  · rw [wr_apu_eq h1 h2 h4 h6]
    exact ⟨fun _ _ _ => rfl, fun _ _ _ => rfl, fun _ _ => rfl, fun _ _ => rfl, fun _ _ => rfl, fun _ => rfl⟩
  · have hk := oamDma_keeps v s
    rw [wr_dma]
    refine ⟨fun _ k _ => ?_, fun h => absurd rfl h, fun _ k => ?_, fun _ k => ?_, fun _ k => ?_, fun k => ?_⟩
    · simp [hk.ram]
    · simp only [haltCpu]; rw [hk.ppu]
    · simp only [haltCpu]; rw [hk.ppu]
    · simp [hk.cart]
    · simp [hk.cart]
  · rw [wr_ctrl]
    split <;>
      exact ⟨fun _ _ _ => rfl, fun _ _ _ => rfl, fun _ _ => rfl, fun _ _ => rfl, fun _ _ => rfl, fun _ => rfl⟩
  · rw [wr_host_eq h]
    exact ⟨fun hn => absurd h (by simp [hn]), fun _ _ _ => rfl, fun _ _ => rfl, fun _ _ => rfl, fun _ _ => rfl,
      fun _ => rfl⟩
  · rw [wr_unmapped h1 h2 h3]
    exact ⟨fun _ _ _ => rfl, fun _ _ _ => rfl, fun _ _ => rfl, fun _ _ => rfl, fun _ _ => rfl, fun _ => rfl⟩
  · rw [wr_cart h]
    exact ⟨fun _ _ _ => rfl, fun _ _ _ => rfl, fun _ _ => rfl, fun _ _ => rfl, fun _ _ => rfl, fun _ => rfl⟩

/-- Program storage and the cartridge's sizes are never written (R482). -/
theorem wr_prg (a : Word) (v : Byte) (s : State) :
    (wr a v s).cart.prg = s.cart.prg ∧ (wr a v s).cart.prgBanks = s.cart.prgBanks ∧
      (wr a v s).cart.chrSize = s.cart.chrSize := by
  rcases write_regions a with h | ⟨h1, h2⟩ | ⟨h1, h2, h4, h6⟩ | rfl | rfl | h | ⟨h1, h2, h3⟩ | h
  · rw [wr_ram h]; simp
  · rw [wr_ppu h1 h2]
    cases hw : ppuPortWrite a v s with
    | none => simp
    | some t =>
      obtain ⟨-, -, -, -, -, -, hprg, hb, hc, -, -⟩ := ppuPortWrite_frame hw
      exact ⟨hprg, hb, hc⟩
  · rw [wr_apu_eq h1 h2 h4 h6]; simp
  · rw [wr_dma]; simp [(oamDma_keeps v s).cart]
  · rw [wr_ctrl]; split <;> simp
  · rw [wr_host_eq h]; simp
  · rw [wr_unmapped h1 h2 h3]; simp
  · rw [wr_cart h]; simp

end Sys2Proof.Laws
end

