-- ==== Sys2Proof/Laws/Invariant.lean ====
section
/-! SUPPORT. Every shared operation keeps a legal state legal. -/

namespace Sys2Proof.Laws

open Sys2Proof Sys2Proof.Machine Sys2Proof.Safety

/-- A legal state after reads: only the status register and the APU need a look. -/
theorem inv_of_readKeeps {s t : State} (hi : Legal s) (h : ReadKeeps s t) (hs : t.ppu.status &&& 0x1F = 0)
    (ha : ApuLegal t.apu) : Legal t := by
  obtain ⟨st, ct, cp, dv, br, sr, pp, -⟩ := hi
  have hp := h.ppu
  refine ⟨⟨?_, ?_, ?_, ?_, ?_, ?_, ?_⟩, ?_, ?_, ?_, ?_, ?_, ⟨?_, ?_, hs⟩, ha⟩
  · simpa [Memory.wf, h.ram, h.cart, congrArg Ppu.nt hp, congrArg Ppu.oam hp, congrArg Ppu.pal hp] using st.canonical
  · rw [h.ram]; exact st.ramSize
  · rw [h.cart]; exact st.prgSize
  · rw [h.cart]; exact st.chrSize
  · rw [hp]; exact st.ntSize
  · rw [hp]; exact st.oamSize
  · rw [hp]; exact st.palSize
  · rw [h.cart]; exact ct
  · rw [h.cpu]; exact cp
  · rw [h.cpuDiv]; exact dv
  · rw [h.hc]; exact br
  · rw [h.mp, h.cart]; exact sr
  · rw [hp]; exact pp.scanline
  · rw [hp]; exact pp.dot

theorem inv_cpu {s : State} (hi : Legal s) {c : Cpu} (hc : CpuLegal c) : Legal { s with cpu := c } :=
  ⟨⟨hi.storages.1, hi.storages.2, hi.storages.3, hi.storages.4, hi.storages.5, hi.storages.6, hi.storages.7⟩,
    hi.cart, hc, hi.divider, hi.bridge, hi.mapper, hi.ppu, hi.apu⟩

theorem inv_apu {s : State} (hi : Legal s) {u : Apu} (ha : ApuLegal u) (d : Nat) : Legal { s with apu := u, draws := d } :=
  ⟨⟨hi.storages.1, hi.storages.2, hi.storages.3, hi.storages.4, hi.storages.5, hi.storages.6, hi.storages.7⟩,
    hi.cart, hi.cpu, hi.divider, hi.bridge, hi.mapper, hi.ppu, ha⟩

theorem audioTurn_inv {s : State} (hi : Legal s) : Legal (audioTurn s) := inv_apu hi (runSamples_legal hi.apu _) _

/-- One CPU-bus read keeps the state legal. -/
theorem rd_inv (a : Word) {s : State} (hi : Legal s) : Legal (rd a s).2 := by
  refine inv_of_readKeeps hi (rd_keeps a s) ?_ ?_
  · rcases bus_regions a with h | ⟨h1, h2⟩ | ⟨h1, h2⟩ | rfl | h | ⟨h1, h2, h3⟩ | h
    · rw [rd_ram h]; exact hi.ppu.statusLow
    · rw [rd_ppu h1 h2]
      have hs := hi.ppu.statusLow
      unfold ppuPortRead
      split
      · exact hs
      · split
        · show (s.ppu.status &&& 0x1F) &&& 0x1F = 0
          rw [hs]; rfl
        · exact hs
        · simpa [readData, stepPpuAddr, ppuBusRead_state] using hs
        · exact hs
    · rw [rd_apu h1 h2]
      unfold apuPortRead
      split <;> exact hi.ppu.statusLow
    · rw [rd_ctrl]; exact hi.ppu.statusLow
    · rw [rd_host h]; exact hi.ppu.statusLow
    · rw [rd_unmapped h1 h2 h3]; exact hi.ppu.statusLow
    · rw [rd_cart h]; exact hi.ppu.statusLow
  · rcases bus_regions a with h | ⟨h1, h2⟩ | ⟨h1, h2⟩ | rfl | h | ⟨h1, h2, h3⟩ | h
    · rw [rd_ram h]; exact hi.apu
    · rw [rd_ppu h1 h2]
      unfold ppuPortRead
      split
      · exact hi.apu
      · split
        · exact hi.apu
        · exact hi.apu
        · simpa [readData, stepPpuAddr, ppuBusRead_state] using hi.apu
        · exact hi.apu
    · rw [rd_apu h1 h2]
      unfold apuPortRead
      split
      · exact hi.apu
      · exact (audioTurn_inv hi).apu
    · rw [rd_ctrl]; exact hi.apu
    · rw [rd_host h]; exact hi.apu
    · rw [rd_unmapped h1 h2 h3]; exact hi.apu
    · rw [rd_cart h]; exact hi.apu

theorem rdPair_inv (al ah : Word) {s : State} (hi : Legal s) : Legal (rdPair al ah s).2 := rd_inv ah (rd_inv al hi)

theorem effAddr_inv (m : Mode) {s : State} (hi : Legal s) : Legal (effAddr m s).st := by
  cases m <;> first | exact hi | exact rdPair_inv _ _ hi

theorem readOperand_inv (m : Mode) {s : State} (hi : Legal s) : Legal (readOperand m s).st := rd_inv _ (effAddr_inv m hi)

/-- The canonical form, storage by storage. -/
theorem memory_wf_iff (s : State) :
    Memory.wf s = true ↔
      Mem.wf s.ram = true ∧ Mem.wf s.cart.prg = true ∧ Mem.wf s.cart.chr = true ∧ Mem.wf s.ppu.nt = true ∧
        Mem.wf s.ppu.oam = true ∧ Mem.wf s.ppu.pal = true := by
  simp [Memory.wf, and_assoc]

theorem inv_ram {s : State} (hi : Legal s) {m : Mem} (hw : Mem.wf m = true) (hb : Mem.below 2048 m = true) :
    Legal { s with ram := m } := by
  have hc := (memory_wf_iff s).1 hi.storages.canonical
  exact ⟨⟨(memory_wf_iff _).2 ⟨hw, hc.2⟩, hb, hi.storages.3, hi.storages.4, hi.storages.5, hi.storages.6,
    hi.storages.7⟩, hi.cart, hi.cpu, hi.divider, hi.bridge, hi.mapper, hi.ppu, hi.apu⟩

theorem inv_oam {s : State} (hi : Legal s) {k : Nat} (hk : k < 256) (v : Byte) (o : Byte) :
    Legal { s with ppu := { s.ppu with oam := Mem.write s.ppu.oam k v, oamaddr := o } } := by
  have hc := (memory_wf_iff s).1 hi.storages.canonical
  exact ⟨⟨(memory_wf_iff _).2 ⟨hc.1, hc.2.1, hc.2.2.1, hc.2.2.2.1, mem_wf_write hc.2.2.2.2.1 k v, hc.2.2.2.2.2⟩,
    hi.storages.2, hi.storages.3, hi.storages.4, hi.storages.5, mem_below_write hk v hi.storages.6, hi.storages.7⟩,
    hi.cart, hi.cpu, hi.divider, hi.bridge, hi.mapper, ⟨hi.ppu.1, hi.ppu.2, hi.ppu.3⟩, hi.apu⟩

theorem inv_hc {s : State} (hi : Legal s) {h : HostCall} (hh : BridgeLegal h) : Legal { s with hc := h } :=
  ⟨⟨hi.storages.1, hi.storages.2, hi.storages.3, hi.storages.4, hi.storages.5, hi.storages.6, hi.storages.7⟩,
    hi.cart, hi.cpu, hi.divider, hh, hi.mapper, hi.ppu, hi.apu⟩

/-- The DMA copy keeps the state legal (R534). -/
theorem oamDma_inv (page : Byte) {s : State} (hi : Legal s) : Legal (oamDma page s) := by
  unfold oamDma
  generalize List.range 256 = l
  induction l generalizing s with
  | nil => exact hi
  | cons i rest ih =>
    refine ih ?_
    have hr := rd_inv (pair page (BitVec.ofNat 8 i)) hi
    exact inv_oam hr (Nat.mod_lt _ (by decide)) _ _

/-- A callback's return keeps the state legal, for a bridge whose counter is in range (R447, R452). -/
theorem hostInvoke_inv {s : State} (hi : Legal { s with hc := HostCall.reset }) (hg : s.hc.got ≤ 4) :
    Legal (hostInvoke s) := by
  have h1 := inv_ram hi (mem_wf_tabulate (Config.hostRam s.hc.id (s.hc.args.get 0) (s.hc.args.get 1) (s.hc.args.get 2)
    (s.hc.args.get 3) (Mem.bytes s.ram 2048)) 2048) (mem_below_tabulate _ 0 2048 2048 (by decide))
  exact inv_hc h1 (h := (hostInvoke s).hc)
    ⟨by simp [hostInvoke], hg, by simp [hostInvoke]⟩

theorem bridgeReset_legal : BridgeLegal HostCall.reset :=
  ⟨by simp [HostCall.reset], by simp [HostCall.reset], by simp [HostCall.reset]⟩

theorem hostWriteIdle_inv (v : Byte) {s : State} (hi : Legal s) : Legal (hostWriteIdle v s) := by
  have hr := inv_hc hi bridgeReset_legal
  unfold hostWriteIdle
  split
  · exact hi
  · next n hn =>
    simp only []
    split
    · exact hostInvoke_inv (s := { s with hc := { s.hc with id := v, args := #v[0, 0, 0, 0], got := 0 } }) hr
        (Nat.zero_le 4)
    · next hz =>
      refine inv_hc hi ⟨by simp, by simp, fun _ => ?_⟩
      simp only [hostDeclared, hn]
      omega

theorem hostDeclared_le (id : Byte) : hostDeclared id ≤ 4 := by
  unfold hostDeclared
  split
  · omega
  · next n _ => have := n.isLt; omega

theorem hostWriteCollecting_inv (v : Byte) {s : State} (hi : Legal s) (hp : s.hc.phase = .collecting) :
    Legal (hostWriteCollecting v s) := by
  have hr := inv_hc hi bridgeReset_legal
  have hlt := hi.bridge.incomplete hp
  have hle := hostDeclared_le s.hc.id
  unfold hostWriteCollecting
  simp only []
  split
  · exact hostInvoke_inv
      (s := { s with hc := { s.hc with args := s.hc.args.setIfInBounds s.hc.got v, got := s.hc.got + 1 } }) hr
      (by simp only []; omega)
  · next hne =>
    refine inv_hc hi ⟨by simp [hp], by simp only []; omega, fun _ => ?_⟩
    simp only [] at hne ⊢
    omega

theorem ntIndex_lt (m : Mapper) (b : PpuAddr) : ntIndex m b < 2048 := by
  have : ntSelect (mirrorBits m) (b.extractLsb' 10 2) ≤ 1 := by
    unfold ntSelect
    split
    · omega
    · omega
    · split <;> omega
    · split <;> omega
  unfold ntIndex
  omega

theorem palIndex_lt (b : PpuAddr) : palIndex b < 32 := by
  unfold palIndex
  simp only []
  split <;> omega

theorem inv_ppuBusWrite (a : Word) (v : Byte) {s : State} (hi : Legal s) : Legal (ppuBusWrite a v s) := by
  have hc := (memory_wf_iff s).1 hi.storages.canonical
  have hsz : 8192 ≤ s.cart.chrSize := by
    have h1 := hi.cart.chrPositive
    have h2 := hi.cart.chrMultiple
    omega
  simp only [ppuBusWrite, busWrite_ppu]
  split
  · next h =>
    exact ⟨⟨(memory_wf_iff _).2 ⟨hc.1, hc.2.1, mem_wf_write hc.2.2.1 _ v, hc.2.2.2⟩, hi.storages.2, hi.storages.3,
      mem_below_write (Nat.lt_of_lt_of_le h hsz) v hi.storages.4, hi.storages.5, hi.storages.6, hi.storages.7⟩,
      ⟨hi.cart.1, hi.cart.2, hi.cart.3⟩, hi.cpu, hi.divider, hi.bridge, hi.mapper, hi.ppu, hi.apu⟩
  · split
    · exact ⟨⟨(memory_wf_iff _).2 ⟨hc.1, hc.2.1, hc.2.2.1, mem_wf_write hc.2.2.2.1 _ v, hc.2.2.2.2⟩, hi.storages.2,
        hi.storages.3, hi.storages.4, mem_below_write (ntIndex_lt _ _) v hi.storages.5, hi.storages.6,
        hi.storages.7⟩, hi.cart, hi.cpu, hi.divider, hi.bridge, hi.mapper, ⟨hi.ppu.1, hi.ppu.2, hi.ppu.3⟩, hi.apu⟩
    · exact ⟨⟨(memory_wf_iff _).2 ⟨hc.1, hc.2.1, hc.2.2.1, hc.2.2.2.1, hc.2.2.2.2.1, mem_wf_write hc.2.2.2.2.2 _ v⟩,
        hi.storages.2, hi.storages.3, hi.storages.4, hi.storages.5, hi.storages.6,
        mem_below_write (palIndex_lt _) v hi.storages.7⟩, hi.cart, hi.cpu, hi.divider, hi.bridge, hi.mapper,
        ⟨hi.ppu.1, hi.ppu.2, hi.ppu.3⟩, hi.apu⟩

/-- A PPU state that keeps the storages, the position and the status register. -/
theorem inv_ppuRegs {s : State} (hi : Legal s) {p : Ppu} (h1 : p.nt = s.ppu.nt) (h2 : p.oam = s.ppu.oam)
    (h3 : p.pal = s.ppu.pal) (hp : PpuLegal p) : Legal { s with ppu := p } := by
  have hc := (memory_wf_iff s).1 hi.storages.canonical
  exact ⟨⟨(memory_wf_iff _).2 ⟨hc.1, hc.2.1, hc.2.2.1, by rw [h1]; exact hc.2.2.2.1, by rw [h2]; exact hc.2.2.2.2.1,
    by rw [h3]; exact hc.2.2.2.2.2⟩, hi.storages.2, hi.storages.3, hi.storages.4, by rw [h1]; exact hi.storages.5,
    by rw [h2]; exact hi.storages.6, by rw [h3]; exact hi.storages.7⟩, hi.cart, hi.cpu, hi.divider, hi.bridge,
    hi.mapper, hp, hi.apu⟩

theorem ppuPortWrite_inv {a : Word} {v : Byte} {s t : State} (hi : Legal s) (h : ppuPortWrite a v s = some t) :
    Legal t := by
  unfold ppuPortWrite at h
  split at h
  · cases h
  obtain rfl := Option.some.inj h
  have hp := hi.ppu
  split
  · exact inv_ppuRegs hi rfl rfl rfl ⟨hp.1, hp.2, hp.3⟩
  · exact inv_ppuRegs hi rfl rfl rfl ⟨hp.1, hp.2, hp.3⟩
  · exact hi
  · exact inv_ppuRegs hi rfl rfl rfl ⟨hp.1, hp.2, hp.3⟩
  · exact inv_oam hi s.ppu.oamaddr.isLt v _
  · exact inv_ppuRegs hi rfl rfl rfl ⟨hp.1, hp.2, hp.3⟩
  · exact inv_ppuRegs hi rfl rfl rfl ⟨hp.1, hp.2, hp.3⟩
  · have hw := inv_ppuBusWrite s.ppu.addr v hi
    exact inv_ppuRegs hw rfl rfl rfl ⟨hw.ppu.1, hw.ppu.2, hw.ppu.3⟩

theorem dmaStall_le (k : Nat) : dmaStall k ≤ 514 := by
  unfold dmaStall
  split <;> omega

/-- A commit stores 5 bits in `prg_second`, or the last bank's number, or leaves it (R489 to R493). -/
theorem mapperCommit_second {banks : Nat} (hb : 1 ≤ banks) (r : BitVec 2) (val : BitVec 5) {m : Mapper}
    (h : m.prgSecond < 32 ∨ m.prgSecond + 1 = banks) :
    (mapperCommit banks r val m).prgSecond < 32 ∨ (mapperCommit banks r val m).prgSecond + 1 = banks := by
  have hv := val.isLt
  unfold mapperCommit
  split
  · exact h
  · unfold commitChr; split <;> exact h
  · exact h
  · unfold commitPrg
    split
    · exact h
    · exact h
    · exact .inl hv
    · exact .inr (Nat.sub_add_cancel hb)

/-- A cartridge write keeps the mapper legal. -/
theorem mapperWrite_legal {banks : Nat} (hb : 1 ≤ banks) (a : Word) (v : Byte) {m : Mapper}
    (h : MapperLegal banks m) : MapperLegal banks (mapperWrite banks a v m) := by
  have hs := h.serial
  unfold mapperWrite mapperResetWrite mapperDataWrite
  simp only []
  split
  · exact ⟨Nat.zero_le 4, h.second⟩
  · split
    · exact ⟨Nat.zero_le 4, mapperCommit_second hb _ _ h.second⟩
    · exact ⟨by simp only []; omega, h.second⟩

/-- One CPU-bus write keeps the state legal. -/
theorem wr_inv (a : Word) (v : Byte) {s : State} (hi : Legal s) : Legal (wr a v s) := by
  have hc := (memory_wf_iff s).1 hi.storages.canonical
  rcases write_regions a with h | ⟨h1, h2⟩ | ⟨h1, h2, h4, h6⟩ | rfl | rfl | h | ⟨h1, h2, h3⟩ | h
  · rw [wr_ram h]
    exact inv_ram hi (mem_wf_write hc.1 _ v) (mem_below_write (Nat.mod_lt _ (by decide)) v hi.storages.2)
  · rw [wr_ppu h1 h2]
    cases hw : ppuPortWrite a v s with
    | none => exact hi
    | some t => exact ppuPortWrite_inv hi hw
  · rw [wr_apu h1 h2 h4 h6]
    unfold apuPortWrite
    split
    · exact hi
    · have ht := audioTurn_inv hi
      cases hw : apuWrite a v (audioTurn s).apu with
      | none => simpa [hw] using ht
      | some u => simpa [hw] using inv_apu ht (apuWrite_legal ht.apu hw) (audioTurn s).draws
  · rw [wr_dma]
    have hd := oamDma_inv v hi
    have hx := inv_cpu hd (c := { (oamDma v s).cpu with halt := dmaStall (oamDma v s).draws })
      ⟨hd.cpu.1, dmaStall_le _, hd.cpu.3⟩
    exact inv_apu hx hx.apu _
  · rw [wr_ctrl]
    split
    · exact ⟨⟨hi.storages.1, hi.storages.2, hi.storages.3, hi.storages.4, hi.storages.5, hi.storages.6,
        hi.storages.7⟩, hi.cart, hi.cpu, hi.divider, hi.bridge, hi.mapper, hi.ppu, hi.apu⟩
    · exact hi
  · rw [wr_host h]
    split
    · exact hostWriteIdle_inv v hi
    · next hp => exact hostWriteCollecting_inv v hi hp
    · exact hi
  · rw [wr_unmapped h1 h2 h3]; exact hi
  · rw [wr_cart h]
    exact ⟨⟨hi.storages.1, hi.storages.2, hi.storages.3, hi.storages.4, hi.storages.5, hi.storages.6,
      hi.storages.7⟩, hi.cart, hi.cpu, hi.divider, hi.bridge, mapperWrite_legal hi.cart.banks a v hi.mapper, hi.ppu, hi.apu⟩

theorem statusEvents_low {p : Ppu} (h : p.status &&& 0x1F = 0) : statusEvents p &&& 0x1F = 0 := by
  unfold statusEvents
  simp only []
  have h1 : ∀ x y : Byte, x &&& 0x1F = 0 → (x &&& y) &&& 0x1F = 0 := fun x y hx => by
    rw [BitVec.and_assoc, BitVec.and_comm y, ← BitVec.and_assoc, hx]; simp
  have h2 : ∀ x y : Byte, x &&& 0x1F = 0 → y &&& 0x1F = 0 → (x ||| y) &&& 0x1F = 0 := fun x y hx hy => by
    have : (x ||| y) &&& 0x1F = (x &&& 0x1F) ||| (y &&& 0x1F) := by
      refine BitVec.eq_of_getLsbD_eq fun i _ => ?_
      simp only [BitVec.getLsbD_and, BitVec.getLsbD_or, Bool.and_or_distrib_right]
    rw [this, hx, hy]; rfl
  split <;> split <;> split <;> first
    | exact h2 _ _ (h2 _ _ (h1 _ _ h) rfl) rfl
    | exact h2 _ _ (h1 _ _ h) rfl
    | exact h2 _ _ (h2 _ _ h rfl) rfl
    | exact h2 _ _ h rfl
    | exact h1 _ _ h
    | exact h

/-- The position counters stay in range (R548, R550). -/
theorem ppuAdvance_legal {p : Ppu} (h : PpuLegal p) : PpuLegal (ppuAdvance p) := by
  obtain ⟨h1, h2, h3⟩ := h
  unfold ppuAdvance
  split
  · split
    · exact ⟨by simp, by simp [lineWidth], h3⟩
    · refine ⟨by simp only []; omega, ?_, h3⟩
      simp only [lineWidth]
      split <;> omega
  · refine ⟨h1, ?_, h3⟩
    simp only [lineWidth] at *
    omega

theorem ppuTick_inv {s : State} (hi : Legal s) : Legal (ppuTick s) := by
  have hp : PpuLegal (ppuAdvance (ppuEvents s.ppu)) :=
    ppuAdvance_legal ⟨hi.ppu.scanline, hi.ppu.dot, statusEvents_low hi.ppu.statusLow⟩
  have hx := inv_cpu hi (c := { s.cpu with nmiPending := s.cpu.nmiPending || nmiDue s.ppu })
    ⟨hi.cpu.1, hi.cpu.2, hi.cpu.3⟩
  refine inv_ppuRegs hx ?_ ?_ ?_ hp <;>
  · unfold ppuAdvance
    split
    · split <;> rfl
    · rfl

theorem dotPrelude_inv {s : State} (hi : Legal s) : Legal (dotPrelude s) := by
  have h := ppuTick_inv (audioTurn_inv hi)
  have hd : (ppuTick (audioTurn s)).cpuDiv ≤ 2 := h.divider
  refine ⟨⟨h.storages.1, h.storages.2, h.storages.3, h.storages.4, h.storages.5, h.storages.6, h.storages.7⟩,
    h.cart, h.cpu, ?_, h.bridge, h.mapper, h.ppu, h.apu⟩
  simp only [dotPrelude]
  split <;> omega

theorem setPc_inv (v : Word) {s : State} (hi : Legal s) : Legal (setPc v s) := inv_cpu hi ⟨hi.cpu.1, hi.cpu.2, hi.cpu.3⟩
theorem setA_inv (v : Byte) {s : State} (hi : Legal s) : Legal (setA v s) := inv_cpu hi ⟨hi.cpu.1, hi.cpu.2, hi.cpu.3⟩
theorem setX_inv (v : Byte) {s : State} (hi : Legal s) : Legal (setX v s) := inv_cpu hi ⟨hi.cpu.1, hi.cpu.2, hi.cpu.3⟩
theorem setY_inv (v : Byte) {s : State} (hi : Legal s) : Legal (setY v s) := inv_cpu hi ⟨hi.cpu.1, hi.cpu.2, hi.cpu.3⟩
theorem setS_inv (v : Byte) {s : State} (hi : Legal s) : Legal (setS v s) := inv_cpu hi ⟨hi.cpu.1, hi.cpu.2, hi.cpu.3⟩
theorem setP_inv (p : Status) {s : State} (hi : Legal s) : Legal (setP p s) := inv_cpu hi ⟨hi.cpu.1, hi.cpu.2, hi.cpu.3⟩
theorem setNmi_inv (b : Bool) {s : State} (hi : Legal s) : Legal (setNmiPending b s) :=
  inv_cpu hi ⟨hi.cpu.1, hi.cpu.2, hi.cpu.3⟩
theorem skip_inv (n : Nat) {s : State} (hi : Legal s) : Legal (skip n s) := setPc_inv _ hi

theorem retire_inv {n : Nat} (hn : n ≤ 7) {s : State} (hi : Legal s) : Legal (retire n s) :=
  inv_cpu hi ⟨by simp only []; omega, hi.cpu.2, hi.cpu.3⟩

theorem push_inv (v : Byte) {s : State} (hi : Legal s) : Legal (push v s) := setS_inv _ (wr_inv _ v hi)

theorem pull_inv {s : State} (hi : Legal s) : Legal (pull s).2 := rd_inv _ (setS_inv _ hi)

theorem pullWord_inv {s : State} (hi : Legal s) : Legal (pullWord s).2 := pull_inv (pull_inv hi)

theorem enterHandler_inv (ret : Word) (b : Bool) (vector : Word) {s : State} (hi : Legal s) :
    Legal (enterHandler ret b vector s) :=
  setPc_inv _ (rdPair_inv _ _ (setP_inv _ (push_inv _ (push_inv _ (push_inv _ hi)))))

end Sys2Proof.Laws
end

