-- ==== Sys2Proof/Laws/PerInstr.lean ====
section
/-! SUPPORT. The per-instruction family Coding: the encoding of an instruction is well-formed code, and the instruction takes 2
to 7 CPU ticks (spec/30_encoding.md R141; spec/70_reset_and_hazards.md R772). -/

namespace Sys2Proof.Laws

open Sys2Proof Sys2Proof.Machine

/-- An instruction's encoding is the code of exactly one instruction, and its time is 2 to 7 ticks. -/
def Coding.Statement (i : Instr) : Prop :=
  wellFormedCode (encode i) = true ∧ ∀ cross taken, 2 ≤ cpuCycles i cross taken ∧ cpuCycles i cross taken ≤ 7

theorem Coding.ldaImm (b : Byte) : Coding.Statement (.ldaImm b) :=
  ⟨rfl, fun cross taken => by cases cross <;> cases taken <;> exact ⟨Nat.le_of_ble_eq_true rfl, Nat.le_of_ble_eq_true rfl⟩⟩
theorem Coding.ldaZp (b : Byte) : Coding.Statement (.ldaZp b) :=
  ⟨rfl, fun cross taken => by cases cross <;> cases taken <;> exact ⟨Nat.le_of_ble_eq_true rfl, Nat.le_of_ble_eq_true rfl⟩⟩
theorem Coding.ldaZpx (b : Byte) : Coding.Statement (.ldaZpx b) :=
  ⟨rfl, fun cross taken => by cases cross <;> cases taken <;> exact ⟨Nat.le_of_ble_eq_true rfl, Nat.le_of_ble_eq_true rfl⟩⟩
theorem Coding.ldaAbs (w : Word) : Coding.Statement (.ldaAbs w) :=
  ⟨rfl, fun cross taken => by cases cross <;> cases taken <;> exact ⟨Nat.le_of_ble_eq_true rfl, Nat.le_of_ble_eq_true rfl⟩⟩
theorem Coding.ldaAbsx (w : Word) : Coding.Statement (.ldaAbsx w) :=
  ⟨rfl, fun cross taken => by cases cross <;> cases taken <;> exact ⟨Nat.le_of_ble_eq_true rfl, Nat.le_of_ble_eq_true rfl⟩⟩
theorem Coding.ldaAbsy (w : Word) : Coding.Statement (.ldaAbsy w) :=
  ⟨rfl, fun cross taken => by cases cross <;> cases taken <;> exact ⟨Nat.le_of_ble_eq_true rfl, Nat.le_of_ble_eq_true rfl⟩⟩
theorem Coding.ldaIndx (b : Byte) : Coding.Statement (.ldaIndx b) :=
  ⟨rfl, fun cross taken => by cases cross <;> cases taken <;> exact ⟨Nat.le_of_ble_eq_true rfl, Nat.le_of_ble_eq_true rfl⟩⟩
theorem Coding.ldaIndy (b : Byte) : Coding.Statement (.ldaIndy b) :=
  ⟨rfl, fun cross taken => by cases cross <;> cases taken <;> exact ⟨Nat.le_of_ble_eq_true rfl, Nat.le_of_ble_eq_true rfl⟩⟩
theorem Coding.ldxImm (b : Byte) : Coding.Statement (.ldxImm b) :=
  ⟨rfl, fun cross taken => by cases cross <;> cases taken <;> exact ⟨Nat.le_of_ble_eq_true rfl, Nat.le_of_ble_eq_true rfl⟩⟩
theorem Coding.ldxZp (b : Byte) : Coding.Statement (.ldxZp b) :=
  ⟨rfl, fun cross taken => by cases cross <;> cases taken <;> exact ⟨Nat.le_of_ble_eq_true rfl, Nat.le_of_ble_eq_true rfl⟩⟩
theorem Coding.ldxZpy (b : Byte) : Coding.Statement (.ldxZpy b) :=
  ⟨rfl, fun cross taken => by cases cross <;> cases taken <;> exact ⟨Nat.le_of_ble_eq_true rfl, Nat.le_of_ble_eq_true rfl⟩⟩
theorem Coding.ldxAbs (w : Word) : Coding.Statement (.ldxAbs w) :=
  ⟨rfl, fun cross taken => by cases cross <;> cases taken <;> exact ⟨Nat.le_of_ble_eq_true rfl, Nat.le_of_ble_eq_true rfl⟩⟩
theorem Coding.ldxAbsy (w : Word) : Coding.Statement (.ldxAbsy w) :=
  ⟨rfl, fun cross taken => by cases cross <;> cases taken <;> exact ⟨Nat.le_of_ble_eq_true rfl, Nat.le_of_ble_eq_true rfl⟩⟩
theorem Coding.ldyImm (b : Byte) : Coding.Statement (.ldyImm b) :=
  ⟨rfl, fun cross taken => by cases cross <;> cases taken <;> exact ⟨Nat.le_of_ble_eq_true rfl, Nat.le_of_ble_eq_true rfl⟩⟩
theorem Coding.ldyZp (b : Byte) : Coding.Statement (.ldyZp b) :=
  ⟨rfl, fun cross taken => by cases cross <;> cases taken <;> exact ⟨Nat.le_of_ble_eq_true rfl, Nat.le_of_ble_eq_true rfl⟩⟩
theorem Coding.ldyZpx (b : Byte) : Coding.Statement (.ldyZpx b) :=
  ⟨rfl, fun cross taken => by cases cross <;> cases taken <;> exact ⟨Nat.le_of_ble_eq_true rfl, Nat.le_of_ble_eq_true rfl⟩⟩
theorem Coding.ldyAbs (w : Word) : Coding.Statement (.ldyAbs w) :=
  ⟨rfl, fun cross taken => by cases cross <;> cases taken <;> exact ⟨Nat.le_of_ble_eq_true rfl, Nat.le_of_ble_eq_true rfl⟩⟩
theorem Coding.ldyAbsx (w : Word) : Coding.Statement (.ldyAbsx w) :=
  ⟨rfl, fun cross taken => by cases cross <;> cases taken <;> exact ⟨Nat.le_of_ble_eq_true rfl, Nat.le_of_ble_eq_true rfl⟩⟩
theorem Coding.staZp (b : Byte) : Coding.Statement (.staZp b) :=
  ⟨rfl, fun cross taken => by cases cross <;> cases taken <;> exact ⟨Nat.le_of_ble_eq_true rfl, Nat.le_of_ble_eq_true rfl⟩⟩
theorem Coding.staZpx (b : Byte) : Coding.Statement (.staZpx b) :=
  ⟨rfl, fun cross taken => by cases cross <;> cases taken <;> exact ⟨Nat.le_of_ble_eq_true rfl, Nat.le_of_ble_eq_true rfl⟩⟩
theorem Coding.staAbs (w : Word) : Coding.Statement (.staAbs w) :=
  ⟨rfl, fun cross taken => by cases cross <;> cases taken <;> exact ⟨Nat.le_of_ble_eq_true rfl, Nat.le_of_ble_eq_true rfl⟩⟩
theorem Coding.staAbsx (w : Word) : Coding.Statement (.staAbsx w) :=
  ⟨rfl, fun cross taken => by cases cross <;> cases taken <;> exact ⟨Nat.le_of_ble_eq_true rfl, Nat.le_of_ble_eq_true rfl⟩⟩
theorem Coding.staAbsy (w : Word) : Coding.Statement (.staAbsy w) :=
  ⟨rfl, fun cross taken => by cases cross <;> cases taken <;> exact ⟨Nat.le_of_ble_eq_true rfl, Nat.le_of_ble_eq_true rfl⟩⟩
theorem Coding.staIndx (b : Byte) : Coding.Statement (.staIndx b) :=
  ⟨rfl, fun cross taken => by cases cross <;> cases taken <;> exact ⟨Nat.le_of_ble_eq_true rfl, Nat.le_of_ble_eq_true rfl⟩⟩
theorem Coding.staIndy (b : Byte) : Coding.Statement (.staIndy b) :=
  ⟨rfl, fun cross taken => by cases cross <;> cases taken <;> exact ⟨Nat.le_of_ble_eq_true rfl, Nat.le_of_ble_eq_true rfl⟩⟩
theorem Coding.stxZp (b : Byte) : Coding.Statement (.stxZp b) :=
  ⟨rfl, fun cross taken => by cases cross <;> cases taken <;> exact ⟨Nat.le_of_ble_eq_true rfl, Nat.le_of_ble_eq_true rfl⟩⟩
theorem Coding.stxZpy (b : Byte) : Coding.Statement (.stxZpy b) :=
  ⟨rfl, fun cross taken => by cases cross <;> cases taken <;> exact ⟨Nat.le_of_ble_eq_true rfl, Nat.le_of_ble_eq_true rfl⟩⟩
theorem Coding.stxAbs (w : Word) : Coding.Statement (.stxAbs w) :=
  ⟨rfl, fun cross taken => by cases cross <;> cases taken <;> exact ⟨Nat.le_of_ble_eq_true rfl, Nat.le_of_ble_eq_true rfl⟩⟩
theorem Coding.styZp (b : Byte) : Coding.Statement (.styZp b) :=
  ⟨rfl, fun cross taken => by cases cross <;> cases taken <;> exact ⟨Nat.le_of_ble_eq_true rfl, Nat.le_of_ble_eq_true rfl⟩⟩
theorem Coding.styZpx (b : Byte) : Coding.Statement (.styZpx b) :=
  ⟨rfl, fun cross taken => by cases cross <;> cases taken <;> exact ⟨Nat.le_of_ble_eq_true rfl, Nat.le_of_ble_eq_true rfl⟩⟩
theorem Coding.styAbs (w : Word) : Coding.Statement (.styAbs w) :=
  ⟨rfl, fun cross taken => by cases cross <;> cases taken <;> exact ⟨Nat.le_of_ble_eq_true rfl, Nat.le_of_ble_eq_true rfl⟩⟩
theorem Coding.tax : Coding.Statement .tax :=
  ⟨rfl, fun cross taken => by cases cross <;> cases taken <;> exact ⟨Nat.le_of_ble_eq_true rfl, Nat.le_of_ble_eq_true rfl⟩⟩
theorem Coding.tay : Coding.Statement .tay :=
  ⟨rfl, fun cross taken => by cases cross <;> cases taken <;> exact ⟨Nat.le_of_ble_eq_true rfl, Nat.le_of_ble_eq_true rfl⟩⟩
theorem Coding.txa : Coding.Statement .txa :=
  ⟨rfl, fun cross taken => by cases cross <;> cases taken <;> exact ⟨Nat.le_of_ble_eq_true rfl, Nat.le_of_ble_eq_true rfl⟩⟩
theorem Coding.tya : Coding.Statement .tya :=
  ⟨rfl, fun cross taken => by cases cross <;> cases taken <;> exact ⟨Nat.le_of_ble_eq_true rfl, Nat.le_of_ble_eq_true rfl⟩⟩
theorem Coding.tsx : Coding.Statement .tsx :=
  ⟨rfl, fun cross taken => by cases cross <;> cases taken <;> exact ⟨Nat.le_of_ble_eq_true rfl, Nat.le_of_ble_eq_true rfl⟩⟩
theorem Coding.txs : Coding.Statement .txs :=
  ⟨rfl, fun cross taken => by cases cross <;> cases taken <;> exact ⟨Nat.le_of_ble_eq_true rfl, Nat.le_of_ble_eq_true rfl⟩⟩
theorem Coding.adcImm (b : Byte) : Coding.Statement (.adcImm b) :=
  ⟨rfl, fun cross taken => by cases cross <;> cases taken <;> exact ⟨Nat.le_of_ble_eq_true rfl, Nat.le_of_ble_eq_true rfl⟩⟩
theorem Coding.adcZp (b : Byte) : Coding.Statement (.adcZp b) :=
  ⟨rfl, fun cross taken => by cases cross <;> cases taken <;> exact ⟨Nat.le_of_ble_eq_true rfl, Nat.le_of_ble_eq_true rfl⟩⟩
theorem Coding.adcZpx (b : Byte) : Coding.Statement (.adcZpx b) :=
  ⟨rfl, fun cross taken => by cases cross <;> cases taken <;> exact ⟨Nat.le_of_ble_eq_true rfl, Nat.le_of_ble_eq_true rfl⟩⟩
theorem Coding.adcAbs (w : Word) : Coding.Statement (.adcAbs w) :=
  ⟨rfl, fun cross taken => by cases cross <;> cases taken <;> exact ⟨Nat.le_of_ble_eq_true rfl, Nat.le_of_ble_eq_true rfl⟩⟩
theorem Coding.adcAbsx (w : Word) : Coding.Statement (.adcAbsx w) :=
  ⟨rfl, fun cross taken => by cases cross <;> cases taken <;> exact ⟨Nat.le_of_ble_eq_true rfl, Nat.le_of_ble_eq_true rfl⟩⟩
theorem Coding.adcAbsy (w : Word) : Coding.Statement (.adcAbsy w) :=
  ⟨rfl, fun cross taken => by cases cross <;> cases taken <;> exact ⟨Nat.le_of_ble_eq_true rfl, Nat.le_of_ble_eq_true rfl⟩⟩
theorem Coding.adcIndx (b : Byte) : Coding.Statement (.adcIndx b) :=
  ⟨rfl, fun cross taken => by cases cross <;> cases taken <;> exact ⟨Nat.le_of_ble_eq_true rfl, Nat.le_of_ble_eq_true rfl⟩⟩
theorem Coding.adcIndy (b : Byte) : Coding.Statement (.adcIndy b) :=
  ⟨rfl, fun cross taken => by cases cross <;> cases taken <;> exact ⟨Nat.le_of_ble_eq_true rfl, Nat.le_of_ble_eq_true rfl⟩⟩
theorem Coding.sbcImm (b : Byte) : Coding.Statement (.sbcImm b) :=
  ⟨rfl, fun cross taken => by cases cross <;> cases taken <;> exact ⟨Nat.le_of_ble_eq_true rfl, Nat.le_of_ble_eq_true rfl⟩⟩
theorem Coding.sbcZp (b : Byte) : Coding.Statement (.sbcZp b) :=
  ⟨rfl, fun cross taken => by cases cross <;> cases taken <;> exact ⟨Nat.le_of_ble_eq_true rfl, Nat.le_of_ble_eq_true rfl⟩⟩
theorem Coding.sbcZpx (b : Byte) : Coding.Statement (.sbcZpx b) :=
  ⟨rfl, fun cross taken => by cases cross <;> cases taken <;> exact ⟨Nat.le_of_ble_eq_true rfl, Nat.le_of_ble_eq_true rfl⟩⟩
theorem Coding.sbcAbs (w : Word) : Coding.Statement (.sbcAbs w) :=
  ⟨rfl, fun cross taken => by cases cross <;> cases taken <;> exact ⟨Nat.le_of_ble_eq_true rfl, Nat.le_of_ble_eq_true rfl⟩⟩
theorem Coding.sbcAbsx (w : Word) : Coding.Statement (.sbcAbsx w) :=
  ⟨rfl, fun cross taken => by cases cross <;> cases taken <;> exact ⟨Nat.le_of_ble_eq_true rfl, Nat.le_of_ble_eq_true rfl⟩⟩
theorem Coding.sbcAbsy (w : Word) : Coding.Statement (.sbcAbsy w) :=
  ⟨rfl, fun cross taken => by cases cross <;> cases taken <;> exact ⟨Nat.le_of_ble_eq_true rfl, Nat.le_of_ble_eq_true rfl⟩⟩
theorem Coding.sbcIndx (b : Byte) : Coding.Statement (.sbcIndx b) :=
  ⟨rfl, fun cross taken => by cases cross <;> cases taken <;> exact ⟨Nat.le_of_ble_eq_true rfl, Nat.le_of_ble_eq_true rfl⟩⟩
theorem Coding.sbcIndy (b : Byte) : Coding.Statement (.sbcIndy b) :=
  ⟨rfl, fun cross taken => by cases cross <;> cases taken <;> exact ⟨Nat.le_of_ble_eq_true rfl, Nat.le_of_ble_eq_true rfl⟩⟩
theorem Coding.andImm (b : Byte) : Coding.Statement (.andImm b) :=
  ⟨rfl, fun cross taken => by cases cross <;> cases taken <;> exact ⟨Nat.le_of_ble_eq_true rfl, Nat.le_of_ble_eq_true rfl⟩⟩
theorem Coding.andZp (b : Byte) : Coding.Statement (.andZp b) :=
  ⟨rfl, fun cross taken => by cases cross <;> cases taken <;> exact ⟨Nat.le_of_ble_eq_true rfl, Nat.le_of_ble_eq_true rfl⟩⟩
theorem Coding.andZpx (b : Byte) : Coding.Statement (.andZpx b) :=
  ⟨rfl, fun cross taken => by cases cross <;> cases taken <;> exact ⟨Nat.le_of_ble_eq_true rfl, Nat.le_of_ble_eq_true rfl⟩⟩
theorem Coding.andAbs (w : Word) : Coding.Statement (.andAbs w) :=
  ⟨rfl, fun cross taken => by cases cross <;> cases taken <;> exact ⟨Nat.le_of_ble_eq_true rfl, Nat.le_of_ble_eq_true rfl⟩⟩
theorem Coding.andAbsx (w : Word) : Coding.Statement (.andAbsx w) :=
  ⟨rfl, fun cross taken => by cases cross <;> cases taken <;> exact ⟨Nat.le_of_ble_eq_true rfl, Nat.le_of_ble_eq_true rfl⟩⟩
theorem Coding.andAbsy (w : Word) : Coding.Statement (.andAbsy w) :=
  ⟨rfl, fun cross taken => by cases cross <;> cases taken <;> exact ⟨Nat.le_of_ble_eq_true rfl, Nat.le_of_ble_eq_true rfl⟩⟩
theorem Coding.andIndx (b : Byte) : Coding.Statement (.andIndx b) :=
  ⟨rfl, fun cross taken => by cases cross <;> cases taken <;> exact ⟨Nat.le_of_ble_eq_true rfl, Nat.le_of_ble_eq_true rfl⟩⟩
theorem Coding.andIndy (b : Byte) : Coding.Statement (.andIndy b) :=
  ⟨rfl, fun cross taken => by cases cross <;> cases taken <;> exact ⟨Nat.le_of_ble_eq_true rfl, Nat.le_of_ble_eq_true rfl⟩⟩
theorem Coding.oraImm (b : Byte) : Coding.Statement (.oraImm b) :=
  ⟨rfl, fun cross taken => by cases cross <;> cases taken <;> exact ⟨Nat.le_of_ble_eq_true rfl, Nat.le_of_ble_eq_true rfl⟩⟩
theorem Coding.oraZp (b : Byte) : Coding.Statement (.oraZp b) :=
  ⟨rfl, fun cross taken => by cases cross <;> cases taken <;> exact ⟨Nat.le_of_ble_eq_true rfl, Nat.le_of_ble_eq_true rfl⟩⟩
theorem Coding.oraZpx (b : Byte) : Coding.Statement (.oraZpx b) :=
  ⟨rfl, fun cross taken => by cases cross <;> cases taken <;> exact ⟨Nat.le_of_ble_eq_true rfl, Nat.le_of_ble_eq_true rfl⟩⟩
theorem Coding.oraAbs (w : Word) : Coding.Statement (.oraAbs w) :=
  ⟨rfl, fun cross taken => by cases cross <;> cases taken <;> exact ⟨Nat.le_of_ble_eq_true rfl, Nat.le_of_ble_eq_true rfl⟩⟩
theorem Coding.oraAbsx (w : Word) : Coding.Statement (.oraAbsx w) :=
  ⟨rfl, fun cross taken => by cases cross <;> cases taken <;> exact ⟨Nat.le_of_ble_eq_true rfl, Nat.le_of_ble_eq_true rfl⟩⟩
theorem Coding.oraAbsy (w : Word) : Coding.Statement (.oraAbsy w) :=
  ⟨rfl, fun cross taken => by cases cross <;> cases taken <;> exact ⟨Nat.le_of_ble_eq_true rfl, Nat.le_of_ble_eq_true rfl⟩⟩
theorem Coding.oraIndx (b : Byte) : Coding.Statement (.oraIndx b) :=
  ⟨rfl, fun cross taken => by cases cross <;> cases taken <;> exact ⟨Nat.le_of_ble_eq_true rfl, Nat.le_of_ble_eq_true rfl⟩⟩
theorem Coding.oraIndy (b : Byte) : Coding.Statement (.oraIndy b) :=
  ⟨rfl, fun cross taken => by cases cross <;> cases taken <;> exact ⟨Nat.le_of_ble_eq_true rfl, Nat.le_of_ble_eq_true rfl⟩⟩
theorem Coding.eorImm (b : Byte) : Coding.Statement (.eorImm b) :=
  ⟨rfl, fun cross taken => by cases cross <;> cases taken <;> exact ⟨Nat.le_of_ble_eq_true rfl, Nat.le_of_ble_eq_true rfl⟩⟩
theorem Coding.eorZp (b : Byte) : Coding.Statement (.eorZp b) :=
  ⟨rfl, fun cross taken => by cases cross <;> cases taken <;> exact ⟨Nat.le_of_ble_eq_true rfl, Nat.le_of_ble_eq_true rfl⟩⟩
theorem Coding.eorZpx (b : Byte) : Coding.Statement (.eorZpx b) :=
  ⟨rfl, fun cross taken => by cases cross <;> cases taken <;> exact ⟨Nat.le_of_ble_eq_true rfl, Nat.le_of_ble_eq_true rfl⟩⟩
theorem Coding.eorAbs (w : Word) : Coding.Statement (.eorAbs w) :=
  ⟨rfl, fun cross taken => by cases cross <;> cases taken <;> exact ⟨Nat.le_of_ble_eq_true rfl, Nat.le_of_ble_eq_true rfl⟩⟩
theorem Coding.eorAbsx (w : Word) : Coding.Statement (.eorAbsx w) :=
  ⟨rfl, fun cross taken => by cases cross <;> cases taken <;> exact ⟨Nat.le_of_ble_eq_true rfl, Nat.le_of_ble_eq_true rfl⟩⟩
theorem Coding.eorAbsy (w : Word) : Coding.Statement (.eorAbsy w) :=
  ⟨rfl, fun cross taken => by cases cross <;> cases taken <;> exact ⟨Nat.le_of_ble_eq_true rfl, Nat.le_of_ble_eq_true rfl⟩⟩
theorem Coding.eorIndx (b : Byte) : Coding.Statement (.eorIndx b) :=
  ⟨rfl, fun cross taken => by cases cross <;> cases taken <;> exact ⟨Nat.le_of_ble_eq_true rfl, Nat.le_of_ble_eq_true rfl⟩⟩
theorem Coding.eorIndy (b : Byte) : Coding.Statement (.eorIndy b) :=
  ⟨rfl, fun cross taken => by cases cross <;> cases taken <;> exact ⟨Nat.le_of_ble_eq_true rfl, Nat.le_of_ble_eq_true rfl⟩⟩
theorem Coding.cmpImm (b : Byte) : Coding.Statement (.cmpImm b) :=
  ⟨rfl, fun cross taken => by cases cross <;> cases taken <;> exact ⟨Nat.le_of_ble_eq_true rfl, Nat.le_of_ble_eq_true rfl⟩⟩
theorem Coding.cmpZp (b : Byte) : Coding.Statement (.cmpZp b) :=
  ⟨rfl, fun cross taken => by cases cross <;> cases taken <;> exact ⟨Nat.le_of_ble_eq_true rfl, Nat.le_of_ble_eq_true rfl⟩⟩
theorem Coding.cmpZpx (b : Byte) : Coding.Statement (.cmpZpx b) :=
  ⟨rfl, fun cross taken => by cases cross <;> cases taken <;> exact ⟨Nat.le_of_ble_eq_true rfl, Nat.le_of_ble_eq_true rfl⟩⟩
theorem Coding.cmpAbs (w : Word) : Coding.Statement (.cmpAbs w) :=
  ⟨rfl, fun cross taken => by cases cross <;> cases taken <;> exact ⟨Nat.le_of_ble_eq_true rfl, Nat.le_of_ble_eq_true rfl⟩⟩
theorem Coding.cmpAbsx (w : Word) : Coding.Statement (.cmpAbsx w) :=
  ⟨rfl, fun cross taken => by cases cross <;> cases taken <;> exact ⟨Nat.le_of_ble_eq_true rfl, Nat.le_of_ble_eq_true rfl⟩⟩
theorem Coding.cmpAbsy (w : Word) : Coding.Statement (.cmpAbsy w) :=
  ⟨rfl, fun cross taken => by cases cross <;> cases taken <;> exact ⟨Nat.le_of_ble_eq_true rfl, Nat.le_of_ble_eq_true rfl⟩⟩
theorem Coding.cmpIndx (b : Byte) : Coding.Statement (.cmpIndx b) :=
  ⟨rfl, fun cross taken => by cases cross <;> cases taken <;> exact ⟨Nat.le_of_ble_eq_true rfl, Nat.le_of_ble_eq_true rfl⟩⟩
theorem Coding.cmpIndy (b : Byte) : Coding.Statement (.cmpIndy b) :=
  ⟨rfl, fun cross taken => by cases cross <;> cases taken <;> exact ⟨Nat.le_of_ble_eq_true rfl, Nat.le_of_ble_eq_true rfl⟩⟩
theorem Coding.cpxImm (b : Byte) : Coding.Statement (.cpxImm b) :=
  ⟨rfl, fun cross taken => by cases cross <;> cases taken <;> exact ⟨Nat.le_of_ble_eq_true rfl, Nat.le_of_ble_eq_true rfl⟩⟩
theorem Coding.cpxZp (b : Byte) : Coding.Statement (.cpxZp b) :=
  ⟨rfl, fun cross taken => by cases cross <;> cases taken <;> exact ⟨Nat.le_of_ble_eq_true rfl, Nat.le_of_ble_eq_true rfl⟩⟩
theorem Coding.cpxAbs (w : Word) : Coding.Statement (.cpxAbs w) :=
  ⟨rfl, fun cross taken => by cases cross <;> cases taken <;> exact ⟨Nat.le_of_ble_eq_true rfl, Nat.le_of_ble_eq_true rfl⟩⟩
theorem Coding.cpyImm (b : Byte) : Coding.Statement (.cpyImm b) :=
  ⟨rfl, fun cross taken => by cases cross <;> cases taken <;> exact ⟨Nat.le_of_ble_eq_true rfl, Nat.le_of_ble_eq_true rfl⟩⟩
theorem Coding.cpyZp (b : Byte) : Coding.Statement (.cpyZp b) :=
  ⟨rfl, fun cross taken => by cases cross <;> cases taken <;> exact ⟨Nat.le_of_ble_eq_true rfl, Nat.le_of_ble_eq_true rfl⟩⟩
theorem Coding.cpyAbs (w : Word) : Coding.Statement (.cpyAbs w) :=
  ⟨rfl, fun cross taken => by cases cross <;> cases taken <;> exact ⟨Nat.le_of_ble_eq_true rfl, Nat.le_of_ble_eq_true rfl⟩⟩
theorem Coding.bitZp (b : Byte) : Coding.Statement (.bitZp b) :=
  ⟨rfl, fun cross taken => by cases cross <;> cases taken <;> exact ⟨Nat.le_of_ble_eq_true rfl, Nat.le_of_ble_eq_true rfl⟩⟩
theorem Coding.bitAbs (w : Word) : Coding.Statement (.bitAbs w) :=
  ⟨rfl, fun cross taken => by cases cross <;> cases taken <;> exact ⟨Nat.le_of_ble_eq_true rfl, Nat.le_of_ble_eq_true rfl⟩⟩
theorem Coding.aslAcc : Coding.Statement .aslAcc :=
  ⟨rfl, fun cross taken => by cases cross <;> cases taken <;> exact ⟨Nat.le_of_ble_eq_true rfl, Nat.le_of_ble_eq_true rfl⟩⟩
theorem Coding.aslZp (b : Byte) : Coding.Statement (.aslZp b) :=
  ⟨rfl, fun cross taken => by cases cross <;> cases taken <;> exact ⟨Nat.le_of_ble_eq_true rfl, Nat.le_of_ble_eq_true rfl⟩⟩
theorem Coding.aslZpx (b : Byte) : Coding.Statement (.aslZpx b) :=
  ⟨rfl, fun cross taken => by cases cross <;> cases taken <;> exact ⟨Nat.le_of_ble_eq_true rfl, Nat.le_of_ble_eq_true rfl⟩⟩
theorem Coding.aslAbs (w : Word) : Coding.Statement (.aslAbs w) :=
  ⟨rfl, fun cross taken => by cases cross <;> cases taken <;> exact ⟨Nat.le_of_ble_eq_true rfl, Nat.le_of_ble_eq_true rfl⟩⟩
theorem Coding.aslAbsx (w : Word) : Coding.Statement (.aslAbsx w) :=
  ⟨rfl, fun cross taken => by cases cross <;> cases taken <;> exact ⟨Nat.le_of_ble_eq_true rfl, Nat.le_of_ble_eq_true rfl⟩⟩
theorem Coding.lsrAcc : Coding.Statement .lsrAcc :=
  ⟨rfl, fun cross taken => by cases cross <;> cases taken <;> exact ⟨Nat.le_of_ble_eq_true rfl, Nat.le_of_ble_eq_true rfl⟩⟩
theorem Coding.lsrZp (b : Byte) : Coding.Statement (.lsrZp b) :=
  ⟨rfl, fun cross taken => by cases cross <;> cases taken <;> exact ⟨Nat.le_of_ble_eq_true rfl, Nat.le_of_ble_eq_true rfl⟩⟩
theorem Coding.lsrZpx (b : Byte) : Coding.Statement (.lsrZpx b) :=
  ⟨rfl, fun cross taken => by cases cross <;> cases taken <;> exact ⟨Nat.le_of_ble_eq_true rfl, Nat.le_of_ble_eq_true rfl⟩⟩
theorem Coding.lsrAbs (w : Word) : Coding.Statement (.lsrAbs w) :=
  ⟨rfl, fun cross taken => by cases cross <;> cases taken <;> exact ⟨Nat.le_of_ble_eq_true rfl, Nat.le_of_ble_eq_true rfl⟩⟩
theorem Coding.lsrAbsx (w : Word) : Coding.Statement (.lsrAbsx w) :=
  ⟨rfl, fun cross taken => by cases cross <;> cases taken <;> exact ⟨Nat.le_of_ble_eq_true rfl, Nat.le_of_ble_eq_true rfl⟩⟩
theorem Coding.rolAcc : Coding.Statement .rolAcc :=
  ⟨rfl, fun cross taken => by cases cross <;> cases taken <;> exact ⟨Nat.le_of_ble_eq_true rfl, Nat.le_of_ble_eq_true rfl⟩⟩
theorem Coding.rolZp (b : Byte) : Coding.Statement (.rolZp b) :=
  ⟨rfl, fun cross taken => by cases cross <;> cases taken <;> exact ⟨Nat.le_of_ble_eq_true rfl, Nat.le_of_ble_eq_true rfl⟩⟩
theorem Coding.rolZpx (b : Byte) : Coding.Statement (.rolZpx b) :=
  ⟨rfl, fun cross taken => by cases cross <;> cases taken <;> exact ⟨Nat.le_of_ble_eq_true rfl, Nat.le_of_ble_eq_true rfl⟩⟩
theorem Coding.rolAbs (w : Word) : Coding.Statement (.rolAbs w) :=
  ⟨rfl, fun cross taken => by cases cross <;> cases taken <;> exact ⟨Nat.le_of_ble_eq_true rfl, Nat.le_of_ble_eq_true rfl⟩⟩
theorem Coding.rolAbsx (w : Word) : Coding.Statement (.rolAbsx w) :=
  ⟨rfl, fun cross taken => by cases cross <;> cases taken <;> exact ⟨Nat.le_of_ble_eq_true rfl, Nat.le_of_ble_eq_true rfl⟩⟩
theorem Coding.rorAcc : Coding.Statement .rorAcc :=
  ⟨rfl, fun cross taken => by cases cross <;> cases taken <;> exact ⟨Nat.le_of_ble_eq_true rfl, Nat.le_of_ble_eq_true rfl⟩⟩
theorem Coding.rorZp (b : Byte) : Coding.Statement (.rorZp b) :=
  ⟨rfl, fun cross taken => by cases cross <;> cases taken <;> exact ⟨Nat.le_of_ble_eq_true rfl, Nat.le_of_ble_eq_true rfl⟩⟩
theorem Coding.rorZpx (b : Byte) : Coding.Statement (.rorZpx b) :=
  ⟨rfl, fun cross taken => by cases cross <;> cases taken <;> exact ⟨Nat.le_of_ble_eq_true rfl, Nat.le_of_ble_eq_true rfl⟩⟩
theorem Coding.rorAbs (w : Word) : Coding.Statement (.rorAbs w) :=
  ⟨rfl, fun cross taken => by cases cross <;> cases taken <;> exact ⟨Nat.le_of_ble_eq_true rfl, Nat.le_of_ble_eq_true rfl⟩⟩
theorem Coding.rorAbsx (w : Word) : Coding.Statement (.rorAbsx w) :=
  ⟨rfl, fun cross taken => by cases cross <;> cases taken <;> exact ⟨Nat.le_of_ble_eq_true rfl, Nat.le_of_ble_eq_true rfl⟩⟩
theorem Coding.incZp (b : Byte) : Coding.Statement (.incZp b) :=
  ⟨rfl, fun cross taken => by cases cross <;> cases taken <;> exact ⟨Nat.le_of_ble_eq_true rfl, Nat.le_of_ble_eq_true rfl⟩⟩
theorem Coding.incZpx (b : Byte) : Coding.Statement (.incZpx b) :=
  ⟨rfl, fun cross taken => by cases cross <;> cases taken <;> exact ⟨Nat.le_of_ble_eq_true rfl, Nat.le_of_ble_eq_true rfl⟩⟩
theorem Coding.incAbs (w : Word) : Coding.Statement (.incAbs w) :=
  ⟨rfl, fun cross taken => by cases cross <;> cases taken <;> exact ⟨Nat.le_of_ble_eq_true rfl, Nat.le_of_ble_eq_true rfl⟩⟩
theorem Coding.incAbsx (w : Word) : Coding.Statement (.incAbsx w) :=
  ⟨rfl, fun cross taken => by cases cross <;> cases taken <;> exact ⟨Nat.le_of_ble_eq_true rfl, Nat.le_of_ble_eq_true rfl⟩⟩
theorem Coding.decZp (b : Byte) : Coding.Statement (.decZp b) :=
  ⟨rfl, fun cross taken => by cases cross <;> cases taken <;> exact ⟨Nat.le_of_ble_eq_true rfl, Nat.le_of_ble_eq_true rfl⟩⟩
theorem Coding.decZpx (b : Byte) : Coding.Statement (.decZpx b) :=
  ⟨rfl, fun cross taken => by cases cross <;> cases taken <;> exact ⟨Nat.le_of_ble_eq_true rfl, Nat.le_of_ble_eq_true rfl⟩⟩
theorem Coding.decAbs (w : Word) : Coding.Statement (.decAbs w) :=
  ⟨rfl, fun cross taken => by cases cross <;> cases taken <;> exact ⟨Nat.le_of_ble_eq_true rfl, Nat.le_of_ble_eq_true rfl⟩⟩
theorem Coding.decAbsx (w : Word) : Coding.Statement (.decAbsx w) :=
  ⟨rfl, fun cross taken => by cases cross <;> cases taken <;> exact ⟨Nat.le_of_ble_eq_true rfl, Nat.le_of_ble_eq_true rfl⟩⟩
theorem Coding.inx : Coding.Statement .inx :=
  ⟨rfl, fun cross taken => by cases cross <;> cases taken <;> exact ⟨Nat.le_of_ble_eq_true rfl, Nat.le_of_ble_eq_true rfl⟩⟩
theorem Coding.iny : Coding.Statement .iny :=
  ⟨rfl, fun cross taken => by cases cross <;> cases taken <;> exact ⟨Nat.le_of_ble_eq_true rfl, Nat.le_of_ble_eq_true rfl⟩⟩
theorem Coding.dex : Coding.Statement .dex :=
  ⟨rfl, fun cross taken => by cases cross <;> cases taken <;> exact ⟨Nat.le_of_ble_eq_true rfl, Nat.le_of_ble_eq_true rfl⟩⟩
theorem Coding.dey : Coding.Statement .dey :=
  ⟨rfl, fun cross taken => by cases cross <;> cases taken <;> exact ⟨Nat.le_of_ble_eq_true rfl, Nat.le_of_ble_eq_true rfl⟩⟩
theorem Coding.jmpAbs (w : Word) : Coding.Statement (.jmpAbs w) :=
  ⟨rfl, fun cross taken => by cases cross <;> cases taken <;> exact ⟨Nat.le_of_ble_eq_true rfl, Nat.le_of_ble_eq_true rfl⟩⟩
theorem Coding.jmpInd (w : Word) : Coding.Statement (.jmpInd w) :=
  ⟨rfl, fun cross taken => by cases cross <;> cases taken <;> exact ⟨Nat.le_of_ble_eq_true rfl, Nat.le_of_ble_eq_true rfl⟩⟩
theorem Coding.jsr (w : Word) : Coding.Statement (.jsr w) :=
  ⟨rfl, fun cross taken => by cases cross <;> cases taken <;> exact ⟨Nat.le_of_ble_eq_true rfl, Nat.le_of_ble_eq_true rfl⟩⟩
theorem Coding.rts : Coding.Statement .rts :=
  ⟨rfl, fun cross taken => by cases cross <;> cases taken <;> exact ⟨Nat.le_of_ble_eq_true rfl, Nat.le_of_ble_eq_true rfl⟩⟩
theorem Coding.bcc (b : Byte) : Coding.Statement (.bcc b) :=
  ⟨rfl, fun cross taken => by cases cross <;> cases taken <;> exact ⟨Nat.le_of_ble_eq_true rfl, Nat.le_of_ble_eq_true rfl⟩⟩
theorem Coding.bcs (b : Byte) : Coding.Statement (.bcs b) :=
  ⟨rfl, fun cross taken => by cases cross <;> cases taken <;> exact ⟨Nat.le_of_ble_eq_true rfl, Nat.le_of_ble_eq_true rfl⟩⟩
theorem Coding.beq (b : Byte) : Coding.Statement (.beq b) :=
  ⟨rfl, fun cross taken => by cases cross <;> cases taken <;> exact ⟨Nat.le_of_ble_eq_true rfl, Nat.le_of_ble_eq_true rfl⟩⟩
theorem Coding.bne (b : Byte) : Coding.Statement (.bne b) :=
  ⟨rfl, fun cross taken => by cases cross <;> cases taken <;> exact ⟨Nat.le_of_ble_eq_true rfl, Nat.le_of_ble_eq_true rfl⟩⟩
theorem Coding.bmi (b : Byte) : Coding.Statement (.bmi b) :=
  ⟨rfl, fun cross taken => by cases cross <;> cases taken <;> exact ⟨Nat.le_of_ble_eq_true rfl, Nat.le_of_ble_eq_true rfl⟩⟩
theorem Coding.bpl (b : Byte) : Coding.Statement (.bpl b) :=
  ⟨rfl, fun cross taken => by cases cross <;> cases taken <;> exact ⟨Nat.le_of_ble_eq_true rfl, Nat.le_of_ble_eq_true rfl⟩⟩
theorem Coding.bvc (b : Byte) : Coding.Statement (.bvc b) :=
  ⟨rfl, fun cross taken => by cases cross <;> cases taken <;> exact ⟨Nat.le_of_ble_eq_true rfl, Nat.le_of_ble_eq_true rfl⟩⟩
theorem Coding.bvs (b : Byte) : Coding.Statement (.bvs b) :=
  ⟨rfl, fun cross taken => by cases cross <;> cases taken <;> exact ⟨Nat.le_of_ble_eq_true rfl, Nat.le_of_ble_eq_true rfl⟩⟩
theorem Coding.brk : Coding.Statement .brk :=
  ⟨rfl, fun cross taken => by cases cross <;> cases taken <;> exact ⟨Nat.le_of_ble_eq_true rfl, Nat.le_of_ble_eq_true rfl⟩⟩
theorem Coding.rti : Coding.Statement .rti :=
  ⟨rfl, fun cross taken => by cases cross <;> cases taken <;> exact ⟨Nat.le_of_ble_eq_true rfl, Nat.le_of_ble_eq_true rfl⟩⟩
theorem Coding.clc : Coding.Statement .clc :=
  ⟨rfl, fun cross taken => by cases cross <;> cases taken <;> exact ⟨Nat.le_of_ble_eq_true rfl, Nat.le_of_ble_eq_true rfl⟩⟩
theorem Coding.sec : Coding.Statement .sec :=
  ⟨rfl, fun cross taken => by cases cross <;> cases taken <;> exact ⟨Nat.le_of_ble_eq_true rfl, Nat.le_of_ble_eq_true rfl⟩⟩
theorem Coding.cli : Coding.Statement .cli :=
  ⟨rfl, fun cross taken => by cases cross <;> cases taken <;> exact ⟨Nat.le_of_ble_eq_true rfl, Nat.le_of_ble_eq_true rfl⟩⟩
theorem Coding.sei : Coding.Statement .sei :=
  ⟨rfl, fun cross taken => by cases cross <;> cases taken <;> exact ⟨Nat.le_of_ble_eq_true rfl, Nat.le_of_ble_eq_true rfl⟩⟩
theorem Coding.cld : Coding.Statement .cld :=
  ⟨rfl, fun cross taken => by cases cross <;> cases taken <;> exact ⟨Nat.le_of_ble_eq_true rfl, Nat.le_of_ble_eq_true rfl⟩⟩
theorem Coding.sed : Coding.Statement .sed :=
  ⟨rfl, fun cross taken => by cases cross <;> cases taken <;> exact ⟨Nat.le_of_ble_eq_true rfl, Nat.le_of_ble_eq_true rfl⟩⟩
theorem Coding.clv : Coding.Statement .clv :=
  ⟨rfl, fun cross taken => by cases cross <;> cases taken <;> exact ⟨Nat.le_of_ble_eq_true rfl, Nat.le_of_ble_eq_true rfl⟩⟩
theorem Coding.pha : Coding.Statement .pha :=
  ⟨rfl, fun cross taken => by cases cross <;> cases taken <;> exact ⟨Nat.le_of_ble_eq_true rfl, Nat.le_of_ble_eq_true rfl⟩⟩
theorem Coding.php : Coding.Statement .php :=
  ⟨rfl, fun cross taken => by cases cross <;> cases taken <;> exact ⟨Nat.le_of_ble_eq_true rfl, Nat.le_of_ble_eq_true rfl⟩⟩
theorem Coding.pla : Coding.Statement .pla :=
  ⟨rfl, fun cross taken => by cases cross <;> cases taken <;> exact ⟨Nat.le_of_ble_eq_true rfl, Nat.le_of_ble_eq_true rfl⟩⟩
theorem Coding.plp : Coding.Statement .plp :=
  ⟨rfl, fun cross taken => by cases cross <;> cases taken <;> exact ⟨Nat.le_of_ble_eq_true rfl, Nat.le_of_ble_eq_true rfl⟩⟩
theorem Coding.nop : Coding.Statement .nop :=
  ⟨rfl, fun cross taken => by cases cross <;> cases taken <;> exact ⟨Nat.le_of_ble_eq_true rfl, Nat.le_of_ble_eq_true rfl⟩⟩

/-- Every instruction. -/
theorem coding_all (i : Instr) : Coding.Statement i := by
  cases i with
  | ldaImm b => exact Coding.ldaImm b
  | ldaZp b => exact Coding.ldaZp b
  | ldaZpx b => exact Coding.ldaZpx b
  | ldaAbs w => exact Coding.ldaAbs w
  | ldaAbsx w => exact Coding.ldaAbsx w
  | ldaAbsy w => exact Coding.ldaAbsy w
  | ldaIndx b => exact Coding.ldaIndx b
  | ldaIndy b => exact Coding.ldaIndy b
  | ldxImm b => exact Coding.ldxImm b
  | ldxZp b => exact Coding.ldxZp b
  | ldxZpy b => exact Coding.ldxZpy b
  | ldxAbs w => exact Coding.ldxAbs w
  | ldxAbsy w => exact Coding.ldxAbsy w
  | ldyImm b => exact Coding.ldyImm b
  | ldyZp b => exact Coding.ldyZp b
  | ldyZpx b => exact Coding.ldyZpx b
  | ldyAbs w => exact Coding.ldyAbs w
  | ldyAbsx w => exact Coding.ldyAbsx w
  | staZp b => exact Coding.staZp b
  | staZpx b => exact Coding.staZpx b
  | staAbs w => exact Coding.staAbs w
  | staAbsx w => exact Coding.staAbsx w
  | staAbsy w => exact Coding.staAbsy w
  | staIndx b => exact Coding.staIndx b
  | staIndy b => exact Coding.staIndy b
  | stxZp b => exact Coding.stxZp b
  | stxZpy b => exact Coding.stxZpy b
  | stxAbs w => exact Coding.stxAbs w
  | styZp b => exact Coding.styZp b
  | styZpx b => exact Coding.styZpx b
  | styAbs w => exact Coding.styAbs w
  | tax => exact Coding.tax
  | tay => exact Coding.tay
  | txa => exact Coding.txa
  | tya => exact Coding.tya
  | tsx => exact Coding.tsx
  | txs => exact Coding.txs
  | adcImm b => exact Coding.adcImm b
  | adcZp b => exact Coding.adcZp b
  | adcZpx b => exact Coding.adcZpx b
  | adcAbs w => exact Coding.adcAbs w
  | adcAbsx w => exact Coding.adcAbsx w
  | adcAbsy w => exact Coding.adcAbsy w
  | adcIndx b => exact Coding.adcIndx b
  | adcIndy b => exact Coding.adcIndy b
  | sbcImm b => exact Coding.sbcImm b
  | sbcZp b => exact Coding.sbcZp b
  | sbcZpx b => exact Coding.sbcZpx b
  | sbcAbs w => exact Coding.sbcAbs w
  | sbcAbsx w => exact Coding.sbcAbsx w
  | sbcAbsy w => exact Coding.sbcAbsy w
  | sbcIndx b => exact Coding.sbcIndx b
  | sbcIndy b => exact Coding.sbcIndy b
  | andImm b => exact Coding.andImm b
  | andZp b => exact Coding.andZp b
  | andZpx b => exact Coding.andZpx b
  | andAbs w => exact Coding.andAbs w
  | andAbsx w => exact Coding.andAbsx w
  | andAbsy w => exact Coding.andAbsy w
  | andIndx b => exact Coding.andIndx b
  | andIndy b => exact Coding.andIndy b
  | oraImm b => exact Coding.oraImm b
  | oraZp b => exact Coding.oraZp b
  | oraZpx b => exact Coding.oraZpx b
  | oraAbs w => exact Coding.oraAbs w
  | oraAbsx w => exact Coding.oraAbsx w
  | oraAbsy w => exact Coding.oraAbsy w
  | oraIndx b => exact Coding.oraIndx b
  | oraIndy b => exact Coding.oraIndy b
  | eorImm b => exact Coding.eorImm b
  | eorZp b => exact Coding.eorZp b
  | eorZpx b => exact Coding.eorZpx b
  | eorAbs w => exact Coding.eorAbs w
  | eorAbsx w => exact Coding.eorAbsx w
  | eorAbsy w => exact Coding.eorAbsy w
  | eorIndx b => exact Coding.eorIndx b
  | eorIndy b => exact Coding.eorIndy b
  | cmpImm b => exact Coding.cmpImm b
  | cmpZp b => exact Coding.cmpZp b
  | cmpZpx b => exact Coding.cmpZpx b
  | cmpAbs w => exact Coding.cmpAbs w
  | cmpAbsx w => exact Coding.cmpAbsx w
  | cmpAbsy w => exact Coding.cmpAbsy w
  | cmpIndx b => exact Coding.cmpIndx b
  | cmpIndy b => exact Coding.cmpIndy b
  | cpxImm b => exact Coding.cpxImm b
  | cpxZp b => exact Coding.cpxZp b
  | cpxAbs w => exact Coding.cpxAbs w
  | cpyImm b => exact Coding.cpyImm b
  | cpyZp b => exact Coding.cpyZp b
  | cpyAbs w => exact Coding.cpyAbs w
  | bitZp b => exact Coding.bitZp b
  | bitAbs w => exact Coding.bitAbs w
  | aslAcc => exact Coding.aslAcc
  | aslZp b => exact Coding.aslZp b
  | aslZpx b => exact Coding.aslZpx b
  | aslAbs w => exact Coding.aslAbs w
  | aslAbsx w => exact Coding.aslAbsx w
  | lsrAcc => exact Coding.lsrAcc
  | lsrZp b => exact Coding.lsrZp b
  | lsrZpx b => exact Coding.lsrZpx b
  | lsrAbs w => exact Coding.lsrAbs w
  | lsrAbsx w => exact Coding.lsrAbsx w
  | rolAcc => exact Coding.rolAcc
  | rolZp b => exact Coding.rolZp b
  | rolZpx b => exact Coding.rolZpx b
  | rolAbs w => exact Coding.rolAbs w
  | rolAbsx w => exact Coding.rolAbsx w
  | rorAcc => exact Coding.rorAcc
  | rorZp b => exact Coding.rorZp b
  | rorZpx b => exact Coding.rorZpx b
  | rorAbs w => exact Coding.rorAbs w
  | rorAbsx w => exact Coding.rorAbsx w
  | incZp b => exact Coding.incZp b
  | incZpx b => exact Coding.incZpx b
  | incAbs w => exact Coding.incAbs w
  | incAbsx w => exact Coding.incAbsx w
  | decZp b => exact Coding.decZp b
  | decZpx b => exact Coding.decZpx b
  | decAbs w => exact Coding.decAbs w
  | decAbsx w => exact Coding.decAbsx w
  | inx => exact Coding.inx
  | iny => exact Coding.iny
  | dex => exact Coding.dex
  | dey => exact Coding.dey
  | jmpAbs w => exact Coding.jmpAbs w
  | jmpInd w => exact Coding.jmpInd w
  | jsr w => exact Coding.jsr w
  | rts => exact Coding.rts
  | bcc b => exact Coding.bcc b
  | bcs b => exact Coding.bcs b
  | beq b => exact Coding.beq b
  | bne b => exact Coding.bne b
  | bmi b => exact Coding.bmi b
  | bpl b => exact Coding.bpl b
  | bvc b => exact Coding.bvc b
  | bvs b => exact Coding.bvs b
  | brk => exact Coding.brk
  | rti => exact Coding.rti
  | clc => exact Coding.clc
  | sec => exact Coding.sec
  | cli => exact Coding.cli
  | sei => exact Coding.sei
  | cld => exact Coding.cld
  | sed => exact Coding.sed
  | clv => exact Coding.clv
  | pha => exact Coding.pha
  | php => exact Coding.php
  | pla => exact Coding.pla
  | plp => exact Coding.plp
  | nop => exact Coding.nop

end Sys2Proof.Laws
end

