-- ==== Sys2Proof/Laws/Step.lean ====
section
/-! SUPPORT. The instruction shapes keep a legal state legal, the fetch of an instruction, and everything one step can do. -/

namespace Sys2Proof.Laws

open Sys2Proof Sys2Proof.Machine Sys2Proof.Safety

theorem ticks_le (i : Instr) (cross taken : Bool) : cpuCycles i cross taken ≤ 7 := ((coding_all i).2 cross taken).2

theorem impliedInstr_inv (i : Instr) {f : State → State} (hf : ∀ s, Legal s → Legal (f s)) {s t : State} (hi : Legal s)
    (h : impliedInstr i f s = .next t) : Legal t := by
  cases h; exact retire_inv (ticks_le _ _ _) (hf _ (skip_inv 1 hi))

theorem immediateInstr_inv (i : Instr) (b : Byte) {f : Byte → State → State} (hf : ∀ m {s}, Legal s → Legal (f m s))
    {s t : State} (hi : Legal s) (h : immediateInstr i b f s = .next t) : Legal t := by
  cases h; exact retire_inv (ticks_le _ _ _) (hf _ (skip_inv 2 hi))

theorem readInstr_inv (i : Instr) (m : Mode) {f : Byte → State → State} (hf : ∀ m {s}, Legal s → Legal (f m s))
    {s t : State} (hi : Legal s) (h : readInstr i m f s = .next t) : Legal t := by
  cases h; exact retire_inv (ticks_le _ _ _) (hf _ (readOperand_inv m (skip_inv _ hi)))

theorem writeInstr_inv (i : Instr) (m : Mode) (v : Cpu → Byte) {s t : State} (hi : Legal s)
    (h : writeInstr i m v s = .next t) : Legal t := by
  cases h; exact retire_inv (ticks_le _ _ _) (wr_inv _ _ (effAddr_inv m (skip_inv _ hi)))

theorem modifyInstr_inv (i : Instr) (m : Mode) (f : Byte → Status → Byte × Status) {s t : State} (hi : Legal s)
    (h : modifyInstr i m f s = .next t) : Legal t := by
  cases h
  exact retire_inv (ticks_le _ _ _) (setP_inv _ (wr_inv _ _ (rd_inv _ (effAddr_inv m (skip_inv _ hi)))))

theorem accumulatorInstr_inv (i : Instr) (f : Byte → Status → Byte × Status) {s t : State} (hi : Legal s)
    (h : accumulatorInstr i f s = .next t) : Legal t := by
  cases h; exact retire_inv (ticks_le _ _ _) (setP_inv _ (setA_inv _ (skip_inv 1 hi)))

theorem branchInstr_inv (i : Instr) (cond : Bool) (b : Byte) {s t : State} (hi : Legal s)
    (h : branchInstr i cond b s = .next t) : Legal t := by
  unfold branchInstr at h
  simp only [] at h
  split at h
  · cases h; exact retire_inv (ticks_le _ _ _) (setPc_inv _ (skip_inv 2 hi))
  · cases h; exact retire_inv (ticks_le _ _ _) (skip_inv 2 hi)

/-- The fetch reads at most three bytes and changes nothing else (R401). -/
theorem fetchInstr_keeps (s : State) : ReadKeeps s (fetchInstr s).st := by
  have h1 := rd_keeps s.cpu.pc s
  unfold fetchInstr
  simp only []
  split
  · exact h1
  · exact h1
  · exact readKeeps_trans h1 (rd_keeps _ _)
  · exact readKeeps_trans h1 (readKeeps_trans (rd_keeps _ _) (rd_keeps _ _))

theorem fetchInstr_inv {s : State} (hi : Legal s) : Legal (fetchInstr s).st := by
  have h1 := rd_inv s.cpu.pc hi
  unfold fetchInstr
  simp only []
  split
  · exact h1
  · exact h1
  · exact rd_inv _ h1
  · exact rd_inv _ (rd_inv _ h1)

/-- Everything a CPU tick that answers a next state can have done (R400, R707). -/
theorem cpuTick_cases {s t : State} (h : cpuTick s = .next t) :
    (0 < s.cpu.halt ∧ t = haltCpu (s.cpu.halt - 1) s) ∨
    (s.cpu.halt = 0 ∧ 0 < s.cpu.pending ∧ t = setPending (s.cpu.pending - 1) s) ∨
    (s.cpu.halt = 0 ∧ s.cpu.pending = 0 ∧ s.cpu.nmiPending = true ∧
      t = retire 7 (interruptEntry nmiVector (setNmiPending false s))) ∨
    (s.cpu.halt = 0 ∧ s.cpu.pending = 0 ∧ s.cpu.nmiPending = false ∧ s.cpu.irqPending = true ∧ s.cpu.p.i = false ∧
      t = retire 7 (interruptEntry irqVector s)) ∨
    (s.cpu.halt = 0 ∧ s.cpu.pending = 0 ∧ s.cpu.nmiPending = false ∧ (s.cpu.irqPending && !s.cpu.p.i) = false ∧
      ∃ i, (fetchInstr s).instr = some i ∧ exec i (fetchInstr s).st = .next t) := by
  unfold cpuTick at h
  split at h
  · next h1 => exact .inl ⟨h1, (Host.Outcome.next.inj h).symm⟩
  next h1 =>
  have h1 : s.cpu.halt = 0 := by omega
  split at h
  · next h2 => exact .inr (.inl ⟨h1, h2, (Host.Outcome.next.inj h).symm⟩)
  next h2 =>
  have h2 : s.cpu.pending = 0 := by omega
  split at h
  · next h3 => exact .inr (.inr (.inl ⟨h1, h2, h3, (Host.Outcome.next.inj h).symm⟩))
  next h3 =>
  have h3 : s.cpu.nmiPending = false := by simpa using h3
  split at h
  · next h4 =>
    have h4 : s.cpu.irqPending = true ∧ s.cpu.p.i = false := by simpa using h4
    exact .inr (.inr (.inr (.inl ⟨h1, h2, h3, h4.1, h4.2, (Host.Outcome.next.inj h).symm⟩)))
  next h4 =>
  have h4 : (s.cpu.irqPending && !s.cpu.p.i) = false := by simpa using h4
  unfold executeOne at h
  simp only [] at h
  split at h
  · cases h
  · next i hf => exact .inr (.inr (.inr (.inr ⟨h1, h2, h3, h4, i, hf, h⟩)))

/-- Everything a step that answers a next state can have done (R410). -/
theorem step_cases {s t : State} (h : step s = .next t) :
    (cpuTickDue s = false ∧ t = dotPrelude s) ∨ (cpuTickDue s = true ∧ cpuTick (dotPrelude s) = .next t) := by
  unfold step dotStep at h
  split at h
  · next hd => exact .inr ⟨hd, h⟩
  · next hd => exact .inl ⟨by simpa using hd, (Host.Outcome.next.inj h).symm⟩

end Sys2Proof.Laws
end

