-- ==== Sys2Proof/Laws/Families.lean ====
section
/-! SUPPORT. Every instruction keeps a legal state legal. -/

namespace Sys2Proof.Laws

open Sys2Proof Sys2Proof.Machine Sys2Proof.Safety

theorem loadA_inv (m : Byte) {s : State} (hi : Legal s) : Legal (loadA m s) := setP_inv _ (setA_inv _ hi)
theorem loadX_inv (m : Byte) {s : State} (hi : Legal s) : Legal (loadX m s) := setP_inv _ (setX_inv _ hi)
theorem loadY_inv (m : Byte) {s : State} (hi : Legal s) : Legal (loadY m s) := setP_inv _ (setY_inv _ hi)
theorem adcA_inv (m : Byte) {s : State} (hi : Legal s) : Legal (adcA m s) := setP_inv _ (setA_inv _ hi)
theorem sbcA_inv (m : Byte) {s : State} (hi : Legal s) : Legal (sbcA m s) := setP_inv _ (setA_inv _ hi)
theorem andA_inv (m : Byte) {s : State} (hi : Legal s) : Legal (andA m s) := setP_inv _ (setA_inv _ hi)
theorem oraA_inv (m : Byte) {s : State} (hi : Legal s) : Legal (oraA m s) := setP_inv _ (setA_inv _ hi)
theorem eorA_inv (m : Byte) {s : State} (hi : Legal s) : Legal (eorA m s) := setP_inv _ (setA_inv _ hi)
theorem compareA_inv (m : Byte) {s : State} (hi : Legal s) : Legal (compareA m s) := setP_inv _ hi
theorem compareX_inv (m : Byte) {s : State} (hi : Legal s) : Legal (compareX m s) := setP_inv _ hi
theorem compareY_inv (m : Byte) {s : State} (hi : Legal s) : Legal (compareY m s) := setP_inv _ hi
theorem bitTest_inv (m : Byte) {s : State} (hi : Legal s) : Legal (bitTest m s) := setP_inv _ hi
theorem transferAX_inv {s : State} (hi : Legal s) : Legal (transferAX s) := loadX_inv _ hi
theorem transferAY_inv {s : State} (hi : Legal s) : Legal (transferAY s) := loadY_inv _ hi
theorem transferXA_inv {s : State} (hi : Legal s) : Legal (transferXA s) := loadA_inv _ hi
theorem transferYA_inv {s : State} (hi : Legal s) : Legal (transferYA s) := loadA_inv _ hi
theorem transferSX_inv {s : State} (hi : Legal s) : Legal (transferSX s) := loadX_inv _ hi
theorem transferXS_inv {s : State} (hi : Legal s) : Legal (transferXS s) := setS_inv _ hi
theorem incrementX_inv {s : State} (hi : Legal s) : Legal (incrementX s) := setP_inv _ (setX_inv _ hi)
theorem decrementX_inv {s : State} (hi : Legal s) : Legal (decrementX s) := setP_inv _ (setX_inv _ hi)
theorem incrementY_inv {s : State} (hi : Legal s) : Legal (incrementY s) := setP_inv _ (setY_inv _ hi)
theorem decrementY_inv {s : State} (hi : Legal s) : Legal (decrementY s) := setP_inv _ (setY_inv _ hi)
theorem returnFromSubroutine_inv {s : State} (hi : Legal s) : Legal (returnFromSubroutine s) := setPc_inv _ (pullWord_inv hi)
theorem breakEntry_inv {s : State} (hi : Legal s) : Legal (breakEntry s) := enterHandler_inv _ _ _ hi
theorem returnFromInterrupt_inv {s : State} (hi : Legal s) : Legal (returnFromInterrupt s) := setPc_inv _ (pullWord_inv (setP_inv _ (pull_inv hi)))
theorem pushA_inv {s : State} (hi : Legal s) : Legal (pushA s) := push_inv _ hi
theorem pushP_inv {s : State} (hi : Legal s) : Legal (pushP s) := push_inv _ hi
theorem pullA_inv {s : State} (hi : Legal s) : Legal (pullA s) := setP_inv _ (setA_inv _ (pull_inv hi))
theorem pullP_inv {s : State} (hi : Legal s) : Legal (pullP s) := setP_inv _ (pull_inv hi)
theorem noOperation_inv {s : State} (hi : Legal s) : Legal (noOperation s) := hi
theorem clearCarry_inv {s : State} (hi : Legal s) : Legal (clearCarry s) := setP_inv _ hi
theorem setCarry_inv {s : State} (hi : Legal s) : Legal (setCarry s) := setP_inv _ hi
theorem clearInterruptDisable_inv {s : State} (hi : Legal s) : Legal (clearInterruptDisable s) := setP_inv _ hi
theorem setInterruptDisable_inv {s : State} (hi : Legal s) : Legal (setInterruptDisable s) := setP_inv _ hi
theorem clearDecimal_inv {s : State} (hi : Legal s) : Legal (clearDecimal s) := setP_inv _ hi
theorem setDecimal_inv {s : State} (hi : Legal s) : Legal (setDecimal s) := setP_inv _ hi
theorem clearOverflow_inv {s : State} (hi : Legal s) : Legal (clearOverflow s) := setP_inv _ hi

/-- Every instruction keeps a legal state legal. -/
theorem exec_inv (i : Instr) {s t : State} (hi : Legal s) (h : exec i s = .next t) : Legal t := by
  cases i with
  | ldaImm b => exact immediateInstr_inv (.ldaImm b) b loadA_inv hi h
  | ldaZp b => exact readInstr_inv (.ldaZp b) (.zp b) loadA_inv hi h
  | ldaZpx b => exact readInstr_inv (.ldaZpx b) (.zpx b) loadA_inv hi h
  | ldaAbs w => exact readInstr_inv (.ldaAbs w) (.abs w) loadA_inv hi h
  | ldaAbsx w => exact readInstr_inv (.ldaAbsx w) (.absx w) loadA_inv hi h
  | ldaAbsy w => exact readInstr_inv (.ldaAbsy w) (.absy w) loadA_inv hi h
  | ldaIndx b => exact readInstr_inv (.ldaIndx b) (.indx b) loadA_inv hi h
  | ldaIndy b => exact readInstr_inv (.ldaIndy b) (.indy b) loadA_inv hi h
  | ldxImm b => exact immediateInstr_inv (.ldxImm b) b loadX_inv hi h
  | ldxZp b => exact readInstr_inv (.ldxZp b) (.zp b) loadX_inv hi h
  | ldxZpy b => exact readInstr_inv (.ldxZpy b) (.zpy b) loadX_inv hi h
  | ldxAbs w => exact readInstr_inv (.ldxAbs w) (.abs w) loadX_inv hi h
  | ldxAbsy w => exact readInstr_inv (.ldxAbsy w) (.absy w) loadX_inv hi h
  | ldyImm b => exact immediateInstr_inv (.ldyImm b) b loadY_inv hi h
  | ldyZp b => exact readInstr_inv (.ldyZp b) (.zp b) loadY_inv hi h
  | ldyZpx b => exact readInstr_inv (.ldyZpx b) (.zpx b) loadY_inv hi h
  | ldyAbs w => exact readInstr_inv (.ldyAbs w) (.abs w) loadY_inv hi h
  | ldyAbsx w => exact readInstr_inv (.ldyAbsx w) (.absx w) loadY_inv hi h
  | staZp b => exact writeInstr_inv (.staZp b) (.zp b) (fun r => r.a) hi h
  | staZpx b => exact writeInstr_inv (.staZpx b) (.zpx b) (fun r => r.a) hi h
  | staAbs w => exact writeInstr_inv (.staAbs w) (.abs w) (fun r => r.a) hi h
  | staAbsx w => exact writeInstr_inv (.staAbsx w) (.absx w) (fun r => r.a) hi h
  | staAbsy w => exact writeInstr_inv (.staAbsy w) (.absy w) (fun r => r.a) hi h
  | staIndx b => exact writeInstr_inv (.staIndx b) (.indx b) (fun r => r.a) hi h
  | staIndy b => exact writeInstr_inv (.staIndy b) (.indy b) (fun r => r.a) hi h
  | stxZp b => exact writeInstr_inv (.stxZp b) (.zp b) (fun r => r.x) hi h
  | stxZpy b => exact writeInstr_inv (.stxZpy b) (.zpy b) (fun r => r.x) hi h
  | stxAbs w => exact writeInstr_inv (.stxAbs w) (.abs w) (fun r => r.x) hi h
  | styZp b => exact writeInstr_inv (.styZp b) (.zp b) (fun r => r.y) hi h
  | styZpx b => exact writeInstr_inv (.styZpx b) (.zpx b) (fun r => r.y) hi h
  | styAbs w => exact writeInstr_inv (.styAbs w) (.abs w) (fun r => r.y) hi h
  | tax => exact impliedInstr_inv .tax (fun _ => transferAX_inv) hi h
  | tay => exact impliedInstr_inv .tay (fun _ => transferAY_inv) hi h
  | txa => exact impliedInstr_inv .txa (fun _ => transferXA_inv) hi h
  | tya => exact impliedInstr_inv .tya (fun _ => transferYA_inv) hi h
  | tsx => exact impliedInstr_inv .tsx (fun _ => transferSX_inv) hi h
  | txs => exact impliedInstr_inv .txs (fun _ => transferXS_inv) hi h
  | adcImm b => exact immediateInstr_inv (.adcImm b) b adcA_inv hi h
  | adcZp b => exact readInstr_inv (.adcZp b) (.zp b) adcA_inv hi h
  | adcZpx b => exact readInstr_inv (.adcZpx b) (.zpx b) adcA_inv hi h
  | adcAbs w => exact readInstr_inv (.adcAbs w) (.abs w) adcA_inv hi h
  | adcAbsx w => exact readInstr_inv (.adcAbsx w) (.absx w) adcA_inv hi h
  | adcAbsy w => exact readInstr_inv (.adcAbsy w) (.absy w) adcA_inv hi h
  | adcIndx b => exact readInstr_inv (.adcIndx b) (.indx b) adcA_inv hi h
  | adcIndy b => exact readInstr_inv (.adcIndy b) (.indy b) adcA_inv hi h
  | sbcImm b => exact immediateInstr_inv (.sbcImm b) b sbcA_inv hi h
  | sbcZp b => exact readInstr_inv (.sbcZp b) (.zp b) sbcA_inv hi h
  | sbcZpx b => exact readInstr_inv (.sbcZpx b) (.zpx b) sbcA_inv hi h
  | sbcAbs w => exact readInstr_inv (.sbcAbs w) (.abs w) sbcA_inv hi h
  | sbcAbsx w => exact readInstr_inv (.sbcAbsx w) (.absx w) sbcA_inv hi h
  | sbcAbsy w => exact readInstr_inv (.sbcAbsy w) (.absy w) sbcA_inv hi h
  | sbcIndx b => exact readInstr_inv (.sbcIndx b) (.indx b) sbcA_inv hi h
  | sbcIndy b => exact readInstr_inv (.sbcIndy b) (.indy b) sbcA_inv hi h
  | andImm b => exact immediateInstr_inv (.andImm b) b andA_inv hi h
  | andZp b => exact readInstr_inv (.andZp b) (.zp b) andA_inv hi h
  | andZpx b => exact readInstr_inv (.andZpx b) (.zpx b) andA_inv hi h
  | andAbs w => exact readInstr_inv (.andAbs w) (.abs w) andA_inv hi h
  | andAbsx w => exact readInstr_inv (.andAbsx w) (.absx w) andA_inv hi h
  | andAbsy w => exact readInstr_inv (.andAbsy w) (.absy w) andA_inv hi h
  | andIndx b => exact readInstr_inv (.andIndx b) (.indx b) andA_inv hi h
  | andIndy b => exact readInstr_inv (.andIndy b) (.indy b) andA_inv hi h
  | oraImm b => exact immediateInstr_inv (.oraImm b) b oraA_inv hi h
  | oraZp b => exact readInstr_inv (.oraZp b) (.zp b) oraA_inv hi h
  | oraZpx b => exact readInstr_inv (.oraZpx b) (.zpx b) oraA_inv hi h
  | oraAbs w => exact readInstr_inv (.oraAbs w) (.abs w) oraA_inv hi h
  | oraAbsx w => exact readInstr_inv (.oraAbsx w) (.absx w) oraA_inv hi h
  | oraAbsy w => exact readInstr_inv (.oraAbsy w) (.absy w) oraA_inv hi h
  | oraIndx b => exact readInstr_inv (.oraIndx b) (.indx b) oraA_inv hi h
  | oraIndy b => exact readInstr_inv (.oraIndy b) (.indy b) oraA_inv hi h
  | eorImm b => exact immediateInstr_inv (.eorImm b) b eorA_inv hi h
  | eorZp b => exact readInstr_inv (.eorZp b) (.zp b) eorA_inv hi h
  | eorZpx b => exact readInstr_inv (.eorZpx b) (.zpx b) eorA_inv hi h
  | eorAbs w => exact readInstr_inv (.eorAbs w) (.abs w) eorA_inv hi h
  | eorAbsx w => exact readInstr_inv (.eorAbsx w) (.absx w) eorA_inv hi h
  | eorAbsy w => exact readInstr_inv (.eorAbsy w) (.absy w) eorA_inv hi h
  | eorIndx b => exact readInstr_inv (.eorIndx b) (.indx b) eorA_inv hi h
  | eorIndy b => exact readInstr_inv (.eorIndy b) (.indy b) eorA_inv hi h
  | cmpImm b => exact immediateInstr_inv (.cmpImm b) b compareA_inv hi h
  | cmpZp b => exact readInstr_inv (.cmpZp b) (.zp b) compareA_inv hi h
  | cmpZpx b => exact readInstr_inv (.cmpZpx b) (.zpx b) compareA_inv hi h
  | cmpAbs w => exact readInstr_inv (.cmpAbs w) (.abs w) compareA_inv hi h
  | cmpAbsx w => exact readInstr_inv (.cmpAbsx w) (.absx w) compareA_inv hi h
  | cmpAbsy w => exact readInstr_inv (.cmpAbsy w) (.absy w) compareA_inv hi h
  | cmpIndx b => exact readInstr_inv (.cmpIndx b) (.indx b) compareA_inv hi h
  | cmpIndy b => exact readInstr_inv (.cmpIndy b) (.indy b) compareA_inv hi h
  | cpxImm b => exact immediateInstr_inv (.cpxImm b) b compareX_inv hi h
  | cpxZp b => exact readInstr_inv (.cpxZp b) (.zp b) compareX_inv hi h
  | cpxAbs w => exact readInstr_inv (.cpxAbs w) (.abs w) compareX_inv hi h
  | cpyImm b => exact immediateInstr_inv (.cpyImm b) b compareY_inv hi h
  | cpyZp b => exact readInstr_inv (.cpyZp b) (.zp b) compareY_inv hi h
  | cpyAbs w => exact readInstr_inv (.cpyAbs w) (.abs w) compareY_inv hi h
  | bitZp b => exact readInstr_inv (.bitZp b) (.zp b) bitTest_inv hi h
  | bitAbs w => exact readInstr_inv (.bitAbs w) (.abs w) bitTest_inv hi h
  | aslAcc => exact accumulatorInstr_inv .aslAcc aslOp hi h
  | aslZp b => exact modifyInstr_inv (.aslZp b) (.zp b) aslOp hi h
  | aslZpx b => exact modifyInstr_inv (.aslZpx b) (.zpx b) aslOp hi h
  | aslAbs w => exact modifyInstr_inv (.aslAbs w) (.abs w) aslOp hi h
  | aslAbsx w => exact modifyInstr_inv (.aslAbsx w) (.absx w) aslOp hi h
  | lsrAcc => exact accumulatorInstr_inv .lsrAcc lsrOp hi h
  | lsrZp b => exact modifyInstr_inv (.lsrZp b) (.zp b) lsrOp hi h
  | lsrZpx b => exact modifyInstr_inv (.lsrZpx b) (.zpx b) lsrOp hi h
  | lsrAbs w => exact modifyInstr_inv (.lsrAbs w) (.abs w) lsrOp hi h
  | lsrAbsx w => exact modifyInstr_inv (.lsrAbsx w) (.absx w) lsrOp hi h
  | rolAcc => exact accumulatorInstr_inv .rolAcc rolOp hi h
  | rolZp b => exact modifyInstr_inv (.rolZp b) (.zp b) rolOp hi h
  | rolZpx b => exact modifyInstr_inv (.rolZpx b) (.zpx b) rolOp hi h
  | rolAbs w => exact modifyInstr_inv (.rolAbs w) (.abs w) rolOp hi h
  | rolAbsx w => exact modifyInstr_inv (.rolAbsx w) (.absx w) rolOp hi h
  | rorAcc => exact accumulatorInstr_inv .rorAcc rorOp hi h
  | rorZp b => exact modifyInstr_inv (.rorZp b) (.zp b) rorOp hi h
  | rorZpx b => exact modifyInstr_inv (.rorZpx b) (.zpx b) rorOp hi h
  | rorAbs w => exact modifyInstr_inv (.rorAbs w) (.abs w) rorOp hi h
  | rorAbsx w => exact modifyInstr_inv (.rorAbsx w) (.absx w) rorOp hi h
  | incZp b => exact modifyInstr_inv (.incZp b) (.zp b) incOp hi h
  | incZpx b => exact modifyInstr_inv (.incZpx b) (.zpx b) incOp hi h
  | incAbs w => exact modifyInstr_inv (.incAbs w) (.abs w) incOp hi h
  | incAbsx w => exact modifyInstr_inv (.incAbsx w) (.absx w) incOp hi h
  | decZp b => exact modifyInstr_inv (.decZp b) (.zp b) decOp hi h
  | decZpx b => exact modifyInstr_inv (.decZpx b) (.zpx b) decOp hi h
  | decAbs w => exact modifyInstr_inv (.decAbs w) (.abs w) decOp hi h
  | decAbsx w => exact modifyInstr_inv (.decAbsx w) (.absx w) decOp hi h
  | inx => exact impliedInstr_inv .inx (fun _ => incrementX_inv) hi h
  | iny => exact impliedInstr_inv .iny (fun _ => incrementY_inv) hi h
  | dex => exact impliedInstr_inv .dex (fun _ => decrementX_inv) hi h
  | dey => exact impliedInstr_inv .dey (fun _ => decrementY_inv) hi h
  | jmpAbs w => cases h; exact retire_inv (ticks_le _ _ _) (setPc_inv _ (skip_inv _ hi))
  | jmpInd w => cases h; exact retire_inv (ticks_le _ _ _) (setPc_inv _ (rdPair_inv _ _ (skip_inv _ hi)))
  | jsr w => cases h; exact retire_inv (ticks_le _ _ _) (setPc_inv _ (push_inv _ (push_inv _ (skip_inv _ hi))))
  | rts => exact impliedInstr_inv .rts (fun _ => returnFromSubroutine_inv) hi h
  | bcc b => exact branchInstr_inv (.bcc b) _ b hi h
  | bcs b => exact branchInstr_inv (.bcs b) _ b hi h
  | beq b => exact branchInstr_inv (.beq b) _ b hi h
  | bne b => exact branchInstr_inv (.bne b) _ b hi h
  | bmi b => exact branchInstr_inv (.bmi b) _ b hi h
  | bpl b => exact branchInstr_inv (.bpl b) _ b hi h
  | bvc b => exact branchInstr_inv (.bvc b) _ b hi h
  | bvs b => exact branchInstr_inv (.bvs b) _ b hi h
  | brk => exact impliedInstr_inv .brk (fun _ => breakEntry_inv) hi h
  | rti => exact impliedInstr_inv .rti (fun _ => returnFromInterrupt_inv) hi h
  | clc => exact impliedInstr_inv .clc (fun _ => clearCarry_inv) hi h
  | sec => exact impliedInstr_inv .sec (fun _ => setCarry_inv) hi h
  | cli => exact impliedInstr_inv .cli (fun _ => clearInterruptDisable_inv) hi h
  | sei => exact impliedInstr_inv .sei (fun _ => setInterruptDisable_inv) hi h
  | cld => exact impliedInstr_inv .cld (fun _ => clearDecimal_inv) hi h
  | sed => exact impliedInstr_inv .sed (fun _ => setDecimal_inv) hi h
  | clv => exact impliedInstr_inv .clv (fun _ => clearOverflow_inv) hi h
  | pha => exact impliedInstr_inv .pha (fun _ => pushA_inv) hi h
  | php => exact impliedInstr_inv .php (fun _ => pushP_inv) hi h
  | pla => exact impliedInstr_inv .pla (fun _ => pullA_inv) hi h
  | plp => exact impliedInstr_inv .plp (fun _ => pullP_inv) hi h
  | nop => exact impliedInstr_inv .nop (fun _ => noOperation_inv) hi h

end Sys2Proof.Laws
end

