-- ==== Sys2Proof/Laws/Words.lean ====
section
/-! SUPPORT. The byte-order helpers as arithmetic: a word is its high byte times 256 plus its low byte. -/

namespace Sys2Proof.Laws

open Sys2Proof

theorem pair_toNat (h l : Byte) : (pair h l).toNat = h.toNat * 256 + l.toNat := by
  have hl := l.isLt
  rw [pair, show (h ++ l : Word).toNat = h.toNat <<< 8 ||| l.toNat from BitVec.toNat_append h l,
    ← Nat.shiftLeft_add_eq_or_of_lt (by omega), Nat.shiftLeft_eq]

theorem lo_toNat (w : Word) : (lo w).toNat = w.toNat % 256 := by simp [lo]

theorem hi_toNat (w : Word) : (hi w).toNat = w.toNat / 256 := by
  have := w.isLt
  simp [hi, Nat.shiftRight_eq_div_pow]; omega

@[simp] theorem lo_pair (h l : Byte) : lo (pair h l) = l := by
  apply BitVec.eq_of_toNat_eq
  have := l.isLt
  rw [lo_toNat, pair_toNat]; omega

@[simp] theorem hi_pair (h l : Byte) : hi (pair h l) = h := by
  apply BitVec.eq_of_toNat_eq
  have := l.isLt
  rw [hi_toNat, pair_toNat]; omega

@[simp] theorem pair_hi_lo (w : Word) : pair (hi w) (lo w) = w := by
  apply BitVec.eq_of_toNat_eq
  rw [pair_toNat, hi_toNat, lo_toNat]; omega

end Sys2Proof.Laws
end

