-- ==== Sys2Proof/Machine/Render.lean ====
section
/-! DEFINITION. The once-per-frame rendering pass, a pure function of the state (spec/48_ppu.md R560 to R570). Its images
are outputs, not state (R39; n19). -/

namespace Sys2Proof.Machine

open Sys2Proof

/-- A byte of graphics storage through the PPU bus. -/
def chrByte (s : State) (a : Nat) : Byte := (ppuBusRead (BitVec.ofNat 16 a) s).1

/-- `TilePix(base, tile, x, y)`, 0 to 3 (R561). -/
def tilePix (s : State) (base : Nat) (tile : Byte) (x y : Nat) : Nat :=
  let row := base + 16 * tile.toNat + y
  ((chrByte s row).getLsbD (7 - x)).toNat + 2 * ((chrByte s (row + 8)).getLsbD (7 - x)).toNat

/-- The background's pattern base (R562). -/
def bgBase (s : State) : Nat := if s.ppu.ctrl.getLsbD 4 then 0x1000 else 0

/-- The sprites' pattern base (R566). -/
def spriteBase (s : State) : Nat := if s.ppu.ctrl.getLsbD 3 then 0x1000 else 0

/-- Pattern-table view: table 0 or 1, tile, pixel (R562). -/
def patternPixel (s : State) (table : Nat) (tile : Byte) (x y : Nat) : Nat := tilePix s (0x1000 * table) tile x y

/-- Nametable view of table `t` at pixel (px, py), px below 256 and py below 240 (R563). -/
def nametablePixel (s : State) (t px py : Nat) : Byte :=
  let tx := px / 8
  let ty := py / 8
  let tile := Mem.read s.ppu.nt (1024 * t + 32 * ty + tx)
  let ab := Mem.read s.ppu.nt (1024 * t + 0x3C0 + 8 * (ty / 4) + tx / 4)
  let q := (ab.toNat >>> (4 * (ty / 2 % 2) + 2 * (tx / 2 % 2))) % 4
  let p := tilePix s (bgBase s) tile (px % 8) (py % 8)
  if p = 0 then Mem.read s.ppu.pal 0 else Mem.read s.ppu.pal (4 * q + p)

/-- Byte `k` of OAM entry `e` (R565). -/
def oamEntry (s : State) (e k : Nat) : Byte := Mem.read s.ppu.oam (4 * e + k)

/-- What entry `e` draws at pixel (px, py) of its layer, if anything (R565, R566). -/
def spritePixel (s : State) (e px py : Nat) : Option Byte :=
  let top := (oamEntry s e 0).toNat + 1
  let left := (oamEntry s e 3).toNat
  let attr := oamEntry s e 2
  if left ≤ px ∧ px < left + 8 ∧ px ≤ 255 ∧ top ≤ py ∧ py < top + 8 ∧ py ≤ 239 then
    let x := px - left
    let y := py - top
    let p := tilePix s (spriteBase s) (oamEntry s e 1) (if attr.getLsbD 6 then 7 - x else x)
      (if attr.getLsbD 7 then 7 - y else y)
    if p = 0 then none else some (Mem.read s.ppu.pal (16 + 4 * (attr.toNat % 4) + p))
  else none

/-- A sprite layer at pixel (px, py): entries 63 down to 0 are drawn over each other, those whose priority bit is
`background`; `none` is transparent (R564). -/
def spriteLayerPixel (s : State) (background : Bool) (px py : Nat) : Option Byte :=
  (List.range 64).reverse.foldl
    (fun drawn e =>
      if (oamEntry s e 2).getLsbD 5 = background then (spritePixel s e px py).orElse (fun _ => drawn) else drawn)
    none

/-- The five images of one frame, each by its coordinates (R560). -/
structure Frame where
  /-- Table, tile, x, y (R562). -/
  pattern : Nat → Byte → Nat → Nat → Nat
  /-- Nametable view 0. -/
  nametable0 : Nat → Nat → Byte
  /-- Nametable view 1. -/
  nametable1 : Nat → Nat → Byte
  /-- Sprites with priority bit 0. -/
  foreground : Nat → Nat → Option Byte
  /-- Sprites with priority bit 1. -/
  backgroundSprites : Nat → Nat → Option Byte
  /-- The "display" scroll, handed to the presentation layer with the images (R560). -/
  scroll : Byte

/-- `RenderPass()` on the state as it stands (R560). -/
def renderPass (s : State) : Frame :=
  { pattern := patternPixel s
    nametable0 := nametablePixel s 0
    nametable1 := nametablePixel s 1
    foreground := spriteLayerPixel s false
    backgroundSprites := spriteLayerPixel s true
    scroll := s.ppu.displayScroll }

/-- The frame a PPU tick at this state hands out: at scanline 241, dot 1, after the vblank actions (R547). -/
def frameOutput (s : State) : Option Frame :=
  if vblankDue s.ppu then some (renderPass { s with ppu := ppuEvents s.ppu }) else none

end Sys2Proof.Machine
end

