-- ==== Sys2Proof/Tests/Slice0.lean ====
section
/-! SUPPORT. Tests: the well-formedness smoke test, decoding of words written out bit by bit, one-step vectors of
spec/95_test_vectors.md (each named by its id there), and a witness for the hypotheses of every obligation that has any. Every
expected value is the spec's. -/

namespace Sys2Proof.Tests

open Sys2Proof Sys2Proof.Machine Sys2Proof.Safety Sys2Proof.Claims Sys2Proof.Laws

/-- A storage with the given bytes. -/
def bytes (l : List (Nat × Byte)) : Mem := l.foldl (fun m cell => Mem.write m cell.1 cell.2) []

/-- CPU registers; the flags as N V D I Z C, one digit each. -/
def regs (a x y sp : Byte) (pc : Word) (nvdizc : BitVec 6) : Cpu :=
  { Cpu.reset pc with
    a := a, x := x, y := y, s := sp
    p :=
      { n := nvdizc.getLsbD 5, v := nvdizc.getLsbD 4, d := nvdizc.getLsbD 3, i := nvdizc.getLsbD 2
        z := nvdizc.getLsbD 1, c := nvdizc.getLsbD 0 } }

/-- A machine with these registers and these bytes of work RAM; the NMI vector and the IRQ vector hold 0x9000. -/
def machine (c : Cpu) (l : List (Nat × Byte)) : State :=
  { State.reset with
    cpu := c, ram := bytes l
    cart := { State.reset.cart with prg := bytes [(0x3FFB, 0x90), (0x3FFF, 0x90)] } }

/-- The instruction at `PC` executes, leaves registers `c` and the written bytes `l` and nothing else changed, and takes
`ticks` ticks. -/
def lands (s : State) (c : Cpu) (l : List (Nat × Byte)) (ticks : Nat) : Bool :=
  match executeOne s with
  | .next t =>
    decide (t =
      { s with
        cpu := { c with pending := ticks - 1 }
        ram := l.foldl (fun m cell => Mem.write m (cell.1 % 2048) cell.2) s.ram })
  | _ => false

/-! Well-formedness: each check refuses an ill-formed term. -/

theorem test_wellFormed_refuses_no_bytes : wellFormedCode [] = false := by decide
theorem test_wellFormed_refuses_undocumented : wellFormedCode [0x02] = false := by decide
theorem test_wellFormed_refuses_last_undocumented : wellFormedCode [0xFF, 0x00, 0x00] = false := by decide
theorem test_wellFormed_refuses_missing_operand : wellFormedCode [0xA9] = false := by decide
theorem test_wellFormed_refuses_half_operand : wellFormedCode [0x4C, 0x00] = false := by decide
theorem test_wellFormed_refuses_extra_byte : wellFormedCode [0xEA, 0x00] = false := by decide
theorem test_wellFormed_accepts_three_lengths :
    (wellFormedCode [0xEA] && wellFormedCode [0xA9, 0x00] && wellFormedCode [0x4C, 0x00, 0xC0]) = true := by decide

/-! Decoding: for every family words written out bit by bit from spec/30_encoding.md R170. -/

theorem test_decode_ldaImm : decode [0b10101001, 0b00000001] = some (.ldaImm 0x01, []) := by decide
theorem test_decode_stxZpy : decode [0b10010110, 0b11110000] = some (.stxZpy 0xF0, []) := by decide
theorem test_decode_tsx : decode [0b10111010] = some (.tsx, []) := by decide
theorem test_decode_sbcIndy : decode [0b11110001, 0b00100000] = some (.sbcIndy 0x20, []) := by decide
theorem test_decode_eorAbsx :
    decode [0b01011101, 0b00110100, 0b00010010] = some (.eorAbsx 0x1234, []) := by decide
theorem test_decode_bitZp : decode [0b00100100, 0b00010000] = some (.bitZp 0x10, []) := by decide
theorem test_decode_rorAcc : decode [0b01101010] = some (.rorAcc, []) := by decide
theorem test_decode_decZpx : decode [0b11010110, 0b00010000] = some (.decZpx 0x10, []) := by decide
theorem test_decode_jmpInd :
    decode [0b01101100, 0b11111111, 0b00000011] = some (.jmpInd 0x03FF, []) := by decide
theorem test_decode_jsr : decode [0b00100000, 0b00010000, 0b00000011] = some (.jsr 0x0310, []) := by decide
theorem test_decode_bvs : decode [0b01110000, 0b10000000] = some (.bvs 0x80, []) := by decide
theorem test_decode_brk : decode [0b00000000, 0b11111111] = some (.brk, [0xFF]) := by decide
theorem test_decode_sed : decode [0b11111000] = some (.sed, []) := by decide
theorem test_decode_plp : decode [0b00101000] = some (.plp, []) := by decide
theorem test_decode_undocumented : decode [0b00000010, 0b00000000] = none := by decide
theorem test_decode_tableWord : decodeTableWord 16 0x01A9 = some (.ldaImm 0x01) := by decide

/-! Instructions: the per-instruction vectors of section 2.1, at most two for each. -/

/-- T1: `LDA #$00`, Z set. -/
theorem test_T1_lda :
    lands (machine (regs 0x55 0x00 0x00 0xFD 0x0200 0b000100)
        [(0x0200, 0xA9), (0x0201, 0x00)])
      (regs 0x00 0x00 0x00 0xFD 0x0202 0b000110) [] 2 = true := by decide

/-- T2: `LDA #$80`, N set. -/
theorem test_T2_lda :
    lands (machine (regs 0x00 0x00 0x00 0xFD 0x0200 0b000100)
        [(0x0200, 0xA9), (0x0201, 0x80)])
      (regs 0x80 0x00 0x00 0xFD 0x0202 0b100100) [] 2 = true := by decide

/-- T3: `LDA $10`. -/
theorem test_T3_lda :
    lands (machine (regs 0x00 0x00 0x00 0xFD 0x0200 0b000100)
        [(0x0010, 0x7F), (0x0200, 0xA5), (0x0201, 0x10)])
      (regs 0x7F 0x00 0x00 0xFD 0x0202 0b000100) [] 3 = true := by decide

/-- T4: `LDA $FF,X`, zero-page wrap: reads 0x0001, not 0x0101. -/
theorem test_T4_lda :
    lands (machine (regs 0x00 0x02 0x00 0xFD 0x0200 0b000100)
        [(0x0001, 0x33), (0x0101, 0x99), (0x0200, 0xB5), (0x0201, 0xFF)])
      (regs 0x33 0x02 0x00 0xFD 0x0202 0b000100) [] 4 = true := by decide

/-- T5: `LDA $02FF,X`, page cross, 4+1 cycles. -/
theorem test_T5_lda :
    lands (machine (regs 0x00 0x01 0x00 0xFD 0x0200 0b000100)
        [(0x0300, 0x44), (0x0200, 0xBD), (0x0201, 0xFF), (0x0202, 0x02)])
      (regs 0x44 0x01 0x00 0xFD 0x0203 0b000100) [] 5 = true := by decide

/-- T6: `LDA $0300,Y`, no cross, 4 cycles. -/
theorem test_T6_lda :
    lands (machine (regs 0x00 0x00 0x10 0xFD 0x0200 0b000100)
        [(0x0310, 0x45), (0x0200, 0xB9), (0x0201, 0x00), (0x0202, 0x03)])
      (regs 0x45 0x00 0x10 0xFD 0x0203 0b000100) [] 4 = true := by decide

/-- T7: `LDA ($FE,X)`, pointer high byte from 0x0000 (wrap). -/
theorem test_T7_lda :
    lands (machine (regs 0x00 0x01 0x00 0xFD 0x0200 0b000100)
        [(0x00FF, 0x34), (0x0000, 0x03), (0x0334, 0x5A), (0x0200, 0xA1), (0x0201, 0xFE)])
      (regs 0x5A 0x01 0x00 0xFD 0x0202 0b000100) [] 6 = true := by decide

/-- T8: `LDA ($FF),Y`, pointer wrap, base 0x03F8 + 0x10 crosses: 5+1. -/
theorem test_T8_lda :
    lands (machine (regs 0x00 0x00 0x10 0xFD 0x0200 0b000100)
        [(0x00FF, 0xF8), (0x0000, 0x03), (0x0408, 0x6B), (0x0200, 0xB1), (0x0201, 0xFF)])
      (regs 0x6B 0x00 0x10 0xFD 0x0202 0b000100) [] 6 = true := by decide

/-- T9: `LDX $10,Y`, ZPY wraps to 0x0005. -/
theorem test_T9_ldx :
    lands (machine (regs 0x00 0x00 0xF5 0xFD 0x0200 0b000100)
        [(0x0005, 0x81), (0x0200, 0xB6), (0x0201, 0x10)])
      (regs 0x00 0x81 0xF5 0xFD 0x0202 0b100100) [] 4 = true := by decide

/-- T10: `LDY $0310,X`, cross; Z set. -/
theorem test_T10_ldy :
    lands (machine (regs 0x00 0xF0 0x00 0xFD 0x0200 0b000100)
        [(0x0400, 0x00), (0x0200, 0xBC), (0x0201, 0x10), (0x0202, 0x03)])
      (regs 0x00 0xF0 0x00 0xFD 0x0203 0b000110) [] 5 = true := by decide

/-- T11: `STA $0300,X`, store: fixed 5 cycles. -/
theorem test_T11_sta :
    lands (machine (regs 0x3C 0xFF 0x00 0xFD 0x0200 0b000100)
        [(0x0200, 0x9D), (0x0201, 0x00), (0x0202, 0x03)])
      (regs 0x3C 0xFF 0x00 0xFD 0x0203 0b000100) [(0x03FF, 0x3C)] 5 = true := by decide

/-- T12: `STA ($20),Y`, store INDY fixed 6 cycles though page crossed. -/
theorem test_T12_sta :
    lands (machine (regs 0x77 0x00 0x01 0xFD 0x0200 0b000100)
        [(0x0020, 0xFF), (0x0021, 0x03), (0x0200, 0x91), (0x0201, 0x20)])
      (regs 0x77 0x00 0x01 0xFD 0x0202 0b000100) [(0x0400, 0x77)] 6 = true := by decide

/-- T13: `STX $F0,Y`, ZPY wrap. -/
theorem test_T13_stx :
    lands (machine (regs 0x00 0x12 0x20 0xFD 0x0200 0b000100)
        [(0x0200, 0x96), (0x0201, 0xF0)])
      (regs 0x00 0x12 0x20 0xFD 0x0202 0b000100) [(0x0010, 0x12)] 4 = true := by decide

/-- T14: `STY $1810`, RAM mirror: 0x1810 is ram[0x010]. -/
theorem test_T14_sty :
    lands (machine (regs 0x00 0x00 0x9A 0xFD 0x0200 0b000100)
        [(0x0200, 0x8C), (0x0201, 0x10), (0x0202, 0x18)])
      (regs 0x00 0x00 0x9A 0xFD 0x0203 0b000100) [(0x0010, 0x9A)] 4 = true := by decide

/-- T15: `TAX`. -/
theorem test_T15_tax :
    lands (machine (regs 0x80 0x00 0x00 0xFD 0x0200 0b000100)
        [(0x0200, 0xAA)])
      (regs 0x80 0x80 0x00 0xFD 0x0201 0b100100) [] 2 = true := by decide

/-- T16: `TAY`, Z set, N cleared. -/
theorem test_T16_tay :
    lands (machine (regs 0x00 0x00 0x00 0xFD 0x0200 0b100000)
        [(0x0200, 0xA8)])
      (regs 0x00 0x00 0x00 0xFD 0x0201 0b000010) [] 2 = true := by decide

/-- T17: `TXA`. -/
theorem test_T17_txa :
    lands (machine (regs 0xFF 0x7F 0x00 0xFD 0x0200 0b000100)
        [(0x0200, 0x8A)])
      (regs 0x7F 0x7F 0x00 0xFD 0x0201 0b000100) [] 2 = true := by decide

/-- T18: `TYA`. -/
theorem test_T18_tya :
    lands (machine (regs 0x00 0x00 0xFF 0xFD 0x0200 0b000100)
        [(0x0200, 0x98)])
      (regs 0xFF 0x00 0xFF 0xFD 0x0201 0b100100) [] 2 = true := by decide

/-- T19: `TSX`. -/
theorem test_T19_tsx :
    lands (machine (regs 0x00 0x00 0x00 0xFD 0x0200 0b000100)
        [(0x0200, 0xBA)])
      (regs 0x00 0xFD 0x00 0xFD 0x0201 0b100100) [] 2 = true := by decide

/-- T20: `TXS`, no flags change: N stays 1, Z stays 0. -/
theorem test_T20_txs :
    lands (machine (regs 0x00 0x00 0x00 0xFD 0x0200 0b100000)
        [(0x0200, 0x9A)])
      (regs 0x00 0x00 0x00 0x00 0x0201 0b100000) [] 2 = true := by decide

/-- A3: `ADC #$01`, signed overflow. -/
theorem test_A3_adc :
    lands (machine (regs 0x7F 0x00 0x00 0xFD 0x0200 0b000100)
        [(0x0200, 0x69), (0x0201, 0x01)])
      (regs 0x80 0x00 0x00 0xFD 0x0202 0b110100) [] 2 = true := by decide

/-- A4: `ADC #$80`, V and C and Z. -/
theorem test_A4_adc :
    lands (machine (regs 0x80 0x00 0x00 0xFD 0x0200 0b000100)
        [(0x0200, 0x69), (0x0201, 0x80)])
      (regs 0x00 0x00 0x00 0xFD 0x0202 0b010111) [] 2 = true := by decide

/-- A7: `ADC $10`, 0x40+0x40: V set, C clear. -/
theorem test_A7_adc :
    lands (machine (regs 0x40 0x00 0x00 0xFD 0x0200 0b000100)
        [(0x0010, 0x40), (0x0200, 0x65), (0x0201, 0x10)])
      (regs 0x80 0x00 0x00 0xFD 0x0202 0b110100) [] 3 = true := by decide

/-- A10: `SBC #$01`, signed overflow. -/
theorem test_A10_sbc :
    lands (machine (regs 0x80 0x00 0x00 0xFD 0x0200 0b000001)
        [(0x0200, 0xE9), (0x0201, 0x01)])
      (regs 0x7F 0x00 0x00 0xFD 0x0202 0b010001) [] 2 = true := by decide

/-- A13: `SBC #$FF`, 0x7F - (-1): V set, C clear. -/
theorem test_A13_sbc :
    lands (machine (regs 0x7F 0x00 0x00 0xFD 0x0200 0b000001)
        [(0x0200, 0xE9), (0x0201, 0xFF)])
      (regs 0x80 0x00 0x00 0xFD 0x0202 0b110000) [] 2 = true := by decide

/-- A14: `AND #$3C`. -/
theorem test_A14_and :
    lands (machine (regs 0xF0 0x00 0x00 0xFD 0x0200 0b000100)
        [(0x0200, 0x29), (0x0201, 0x3C)])
      (regs 0x30 0x00 0x00 0xFD 0x0202 0b000100) [] 2 = true := by decide

/-- A15: `AND $0300,Y`, Z. -/
theorem test_A15_and :
    lands (machine (regs 0xFF 0x00 0x01 0xFD 0x0200 0b000100)
        [(0x0301, 0x00), (0x0200, 0x39), (0x0201, 0x00), (0x0202, 0x03)])
      (regs 0x00 0x00 0x01 0xFD 0x0203 0b000110) [] 4 = true := by decide

/-- A16: `ORA #$80`. -/
theorem test_A16_ora :
    lands (machine (regs 0x01 0x00 0x00 0xFD 0x0200 0b000100)
        [(0x0200, 0x09), (0x0201, 0x80)])
      (regs 0x81 0x00 0x00 0xFD 0x0202 0b100100) [] 2 = true := by decide

/-- A17: `ORA ($10,X)`, Z. -/
theorem test_A17_ora :
    lands (machine (regs 0x00 0x04 0x00 0xFD 0x0200 0b000100)
        [(0x0014, 0x00), (0x0015, 0x03), (0x0300, 0x00), (0x0200, 0x01), (0x0201, 0x10)])
      (regs 0x00 0x04 0x00 0xFD 0x0202 0b000110) [] 6 = true := by decide

/-- A18: `EOR #$FF`. -/
theorem test_A18_eor :
    lands (machine (regs 0xAA 0x00 0x00 0xFD 0x0200 0b000100)
        [(0x0200, 0x49), (0x0201, 0xFF)])
      (regs 0x55 0x00 0x00 0xFD 0x0202 0b000100) [] 2 = true := by decide

/-- A19: `EOR $10,X`, Z. -/
theorem test_A19_eor :
    lands (machine (regs 0x5A 0x01 0x00 0xFD 0x0200 0b000100)
        [(0x0011, 0x5A), (0x0200, 0x55), (0x0201, 0x10)])
      (regs 0x00 0x01 0x00 0xFD 0x0202 0b000110) [] 4 = true := by decide

/-- A21: `CMP #$01`, V untouched, C cleared. -/
theorem test_A21_cmp :
    lands (machine (regs 0x00 0x00 0x00 0xFD 0x0200 0b010001)
        [(0x0200, 0xC9), (0x0201, 0x01)])
      (regs 0x00 0x00 0x00 0xFD 0x0202 0b110000) [] 2 = true := by decide

/-- A22: `CMP #$7F`, unsigned: C=1, N=0. -/
theorem test_A22_cmp :
    lands (machine (regs 0x80 0x00 0x00 0xFD 0x0200 0b000100)
        [(0x0200, 0xC9), (0x0201, 0x7F)])
      (regs 0x80 0x00 0x00 0xFD 0x0202 0b000101) [] 2 = true := by decide

/-- A23: `CPX #$08`. -/
theorem test_A23_cpx :
    lands (machine (regs 0x00 0x05 0x00 0xFD 0x0200 0b000100)
        [(0x0200, 0xE0), (0x0201, 0x08)])
      (regs 0x00 0x05 0x00 0xFD 0x0202 0b100100) [] 2 = true := by decide

/-- A24: `CPY $10`. -/
theorem test_A24_cpy :
    lands (machine (regs 0x00 0x00 0x10 0xFD 0x0200 0b000100)
        [(0x0010, 0x10), (0x0200, 0xC4), (0x0201, 0x10)])
      (regs 0x00 0x00 0x10 0xFD 0x0202 0b000111) [] 3 = true := by decide

/-- A25: `BIT $10`. -/
theorem test_A25_bit :
    lands (machine (regs 0x01 0x00 0x00 0xFD 0x0200 0b000100)
        [(0x0010, 0x41), (0x0200, 0x24), (0x0201, 0x10)])
      (regs 0x01 0x00 0x00 0xFD 0x0202 0b010100) [] 3 = true := by decide

/-- A26: `BIT $0310`, N,V from memory; Z from and; C kept. -/
theorem test_A26_bit :
    lands (machine (regs 0x00 0x00 0x00 0xFD 0x0200 0b000001)
        [(0x0310, 0xC0), (0x0200, 0x2C), (0x0201, 0x10), (0x0202, 0x03)])
      (regs 0x00 0x00 0x00 0xFD 0x0203 0b110011) [] 4 = true := by decide

/-- H1: `ASL A`. -/
theorem test_H1_asl :
    lands (machine (regs 0x81 0x00 0x00 0xFD 0x0200 0b000100)
        [(0x0200, 0x0A)])
      (regs 0x02 0x00 0x00 0xFD 0x0201 0b000101) [] 2 = true := by decide

/-- H2: `ASL A`, Z and C. -/
theorem test_H2_asl :
    lands (machine (regs 0x80 0x00 0x00 0xFD 0x0200 0b000100)
        [(0x0200, 0x0A)])
      (regs 0x00 0x00 0x00 0xFD 0x0201 0b000111) [] 2 = true := by decide

/-- H3: `ASL $10`, flags from the memory result; A untouched. -/
theorem test_H3_asl :
    lands (machine (regs 0x11 0x00 0x00 0xFD 0x0200 0b000100)
        [(0x0010, 0x40), (0x0200, 0x06), (0x0201, 0x10)])
      (regs 0x11 0x00 0x00 0xFD 0x0202 0b100100) [(0x0010, 0x80)] 5 = true := by decide

/-- H4: `LSR A`, N always cleared. -/
theorem test_H4_lsr :
    lands (machine (regs 0x01 0x00 0x00 0xFD 0x0200 0b100000)
        [(0x0200, 0x4A)])
      (regs 0x00 0x00 0x00 0xFD 0x0201 0b000011) [] 2 = true := by decide

/-- H5: `LSR $0310,X`, fixed 7 cycles. -/
theorem test_H5_lsr :
    lands (machine (regs 0x00 0xF0 0x00 0xFD 0x0200 0b000100)
        [(0x0400, 0xFE), (0x0200, 0x5E), (0x0201, 0x10), (0x0202, 0x03)])
      (regs 0x00 0xF0 0x00 0xFD 0x0203 0b000100) [(0x0400, 0x7F)] 7 = true := by decide

/-- H6: `ROL A`. -/
theorem test_H6_rol :
    lands (machine (regs 0x40 0x00 0x00 0xFD 0x0200 0b000001)
        [(0x0200, 0x2A)])
      (regs 0x81 0x00 0x00 0xFD 0x0201 0b100000) [] 2 = true := by decide

/-- H7: `ROL $10`. -/
theorem test_H7_rol :
    lands (machine (regs 0x00 0x00 0x00 0xFD 0x0200 0b000100)
        [(0x0010, 0x80), (0x0200, 0x26), (0x0201, 0x10)])
      (regs 0x00 0x00 0x00 0xFD 0x0202 0b000111) [(0x0010, 0x00)] 5 = true := by decide

/-- H8: `ROR A`. -/
theorem test_H8_ror :
    lands (machine (regs 0x02 0x00 0x00 0xFD 0x0200 0b000001)
        [(0x0200, 0x6A)])
      (regs 0x81 0x00 0x00 0xFD 0x0201 0b100000) [] 2 = true := by decide

/-- H9: `ROR $10,X`. -/
theorem test_H9_ror :
    lands (machine (regs 0x00 0x01 0x00 0xFD 0x0200 0b000100)
        [(0x0011, 0x01), (0x0200, 0x76), (0x0201, 0x10)])
      (regs 0x00 0x01 0x00 0xFD 0x0202 0b000111) [(0x0011, 0x00)] 6 = true := by decide

/-- H10: `INC $10`, wrap; C not touched. -/
theorem test_H10_inc :
    lands (machine (regs 0x00 0x00 0x00 0xFD 0x0200 0b000001)
        [(0x0010, 0xFF), (0x0200, 0xE6), (0x0201, 0x10)])
      (regs 0x00 0x00 0x00 0xFD 0x0202 0b000011) [(0x0010, 0x00)] 5 = true := by decide

/-- H11: `INC $0310`. -/
theorem test_H11_inc :
    lands (machine (regs 0x00 0x00 0x00 0xFD 0x0200 0b000100)
        [(0x0310, 0x7F), (0x0200, 0xEE), (0x0201, 0x10), (0x0202, 0x03)])
      (regs 0x00 0x00 0x00 0xFD 0x0203 0b100100) [(0x0310, 0x80)] 6 = true := by decide

/-- H12: `DEC $10`, wrap. -/
theorem test_H12_dec :
    lands (machine (regs 0x00 0x00 0x00 0xFD 0x0200 0b000100)
        [(0x0010, 0x00), (0x0200, 0xC6), (0x0201, 0x10)])
      (regs 0x00 0x00 0x00 0xFD 0x0202 0b100100) [(0x0010, 0xFF)] 5 = true := by decide

/-- H13: `DEC $10,X`. -/
theorem test_H13_dec :
    lands (machine (regs 0x00 0xF8 0x00 0xFD 0x0200 0b000100)
        [(0x0008, 0x01), (0x0200, 0xD6), (0x0201, 0x10)])
      (regs 0x00 0xF8 0x00 0xFD 0x0202 0b000110) [(0x0008, 0x00)] 6 = true := by decide

/-- H14: `INX`. -/
theorem test_H14_inx :
    lands (machine (regs 0x00 0xFF 0x00 0xFD 0x0200 0b000100)
        [(0x0200, 0xE8)])
      (regs 0x00 0x00 0x00 0xFD 0x0201 0b000110) [] 2 = true := by decide

/-- H15: `INY`. -/
theorem test_H15_iny :
    lands (machine (regs 0x00 0x00 0x7F 0xFD 0x0200 0b000100)
        [(0x0200, 0xC8)])
      (regs 0x00 0x00 0x80 0xFD 0x0201 0b100100) [] 2 = true := by decide

/-- H16: `DEX`. -/
theorem test_H16_dex :
    lands (machine (regs 0x00 0x00 0x00 0xFD 0x0200 0b000100)
        [(0x0200, 0xCA)])
      (regs 0x00 0xFF 0x00 0xFD 0x0201 0b100100) [] 2 = true := by decide

/-- H17: `DEY`. -/
theorem test_H17_dey :
    lands (machine (regs 0x00 0x00 0x01 0xFD 0x0200 0b000100)
        [(0x0200, 0x88)])
      (regs 0x00 0x00 0x00 0xFD 0x0201 0b000110) [] 2 = true := by decide

/-- C1: `JMP $C000`. -/
theorem test_C1_jmp :
    lands (machine (regs 0x00 0x00 0x00 0xFD 0x0200 0b000100)
        [(0x0200, 0x4C), (0x0201, 0x00), (0x0202, 0xC0)])
      (regs 0x00 0x00 0x00 0xFD 0xC000 0b000100) [] 3 = true := by decide

/-- C2: `JMP ($03FF)`, high byte from 0x0300, not 0x0400. -/
theorem test_C2_jmp :
    lands (machine (regs 0x00 0x00 0x00 0xFD 0x0200 0b000100)
        [(0x03FF, 0x34), (0x0300, 0x12), (0x0400, 0x56), (0x0200, 0x6C), (0x0201, 0xFF), (0x0202, 0x03)])
      (regs 0x00 0x00 0x00 0xFD 0x1234 0b000100) [] 5 = true := by decide

/-- C3: `JSR $0310`, pushes 0x0202. -/
theorem test_C3_jsr :
    lands (machine (regs 0x00 0x00 0x00 0xFD 0x0200 0b000100)
        [(0x0200, 0x20), (0x0201, 0x10), (0x0202, 0x03)])
      (regs 0x00 0x00 0x00 0xFB 0x0310 0b000100) [(0x01FD, 0x02), (0x01FC, 0x02)] 6 = true := by decide

/-- C4: `JSR $0310`, stack wrap. -/
theorem test_C4_jsr :
    lands (machine (regs 0x00 0x00 0x00 0x00 0x0200 0b000100)
        [(0x0200, 0x20), (0x0201, 0x10), (0x0202, 0x03)])
      (regs 0x00 0x00 0x00 0xFE 0x0310 0b000100) [(0x0100, 0x02), (0x01FF, 0x02)] 6 = true := by decide

/-- C5: `RTS`. -/
theorem test_C5_rts :
    lands (machine (regs 0x00 0x00 0x00 0xFB 0x0200 0b000100)
        [(0x01FC, 0x02), (0x01FD, 0x80), (0x0200, 0x60)])
      (regs 0x00 0x00 0x00 0xFD 0x8003 0b000100) [] 6 = true := by decide

/-- C6: `RTS`, pull wraps 0x1FF then 0x100; 0xFFFF+1 = 0x0000. -/
theorem test_C6_rts :
    lands (machine (regs 0x00 0x00 0x00 0xFE 0x0200 0b000100)
        [(0x01FF, 0xFF), (0x0100, 0xFF), (0x0200, 0x60)])
      (regs 0x00 0x00 0x00 0x00 0x0000 0b000100) [] 6 = true := by decide

/-- C7: `BCC *+4`. -/
theorem test_C7_bcc :
    lands (machine (regs 0x00 0x00 0x00 0xFD 0x0200 0b000100)
        [(0x0200, 0x90), (0x0201, 0x02)])
      (regs 0x00 0x00 0x00 0xFD 0x0204 0b000100) [] 3 = true := by decide

/-- C8: `BCC *+4`, not taken. -/
theorem test_C8_bcc :
    lands (machine (regs 0x00 0x00 0x00 0xFD 0x0200 0b000001)
        [(0x0200, 0x90), (0x0201, 0x02)])
      (regs 0x00 0x00 0x00 0xFD 0x0202 0b000001) [] 2 = true := by decide

/-- C9: `BCS *`, branch to self. -/
theorem test_C9_bcs :
    lands (machine (regs 0x00 0x00 0x00 0xFD 0x0200 0b000001)
        [(0x0200, 0xB0), (0x0201, 0xFE)])
      (regs 0x00 0x00 0x00 0xFD 0x0200 0b000001) [] 3 = true := by decide

/-- C10: `BEQ *+7`, taken, crosses: next 0x02FF, target 0x0304. -/
theorem test_C10_beq :
    lands (machine (regs 0x00 0x00 0x00 0xFD 0x02FD 0b000010)
        [(0x02FD, 0xF0), (0x02FE, 0x05)])
      (regs 0x00 0x00 0x00 0xFD 0x0304 0b000010) [] 4 = true := by decide

/-- C11: `BNE *-3`. -/
theorem test_C11_bne :
    lands (machine (regs 0x00 0x00 0x00 0xFD 0x0205 0b000100)
        [(0x0205, 0xD0), (0x0206, 0xFB)])
      (regs 0x00 0x00 0x00 0xFD 0x0202 0b000100) [] 3 = true := by decide

/-- C12: `BNE *-3`, backward cross: next 0x0302, target 0x02FD. -/
theorem test_C12_bne :
    lands (machine (regs 0x00 0x00 0x00 0xFD 0x0300 0b000100)
        [(0x0300, 0xD0), (0x0301, 0xFB)])
      (regs 0x00 0x00 0x00 0xFD 0x02FD 0b000100) [] 4 = true := by decide

/-- C13: `BMI *+18`. -/
theorem test_C13_bmi :
    lands (machine (regs 0x00 0x00 0x00 0xFD 0x0200 0b100000)
        [(0x0200, 0x30), (0x0201, 0x10)])
      (regs 0x00 0x00 0x00 0xFD 0x0212 0b100000) [] 3 = true := by decide

/-- C14: `BPL *-3`. -/
theorem test_C14_bpl :
    lands (machine (regs 0x00 0x00 0x00 0xFD 0x0203 0b000100)
        [(0x0203, 0x10), (0x0204, 0xFB)])
      (regs 0x00 0x00 0x00 0xFD 0x0200 0b000100) [] 3 = true := by decide

/-- C15: `BVC *+4`. -/
theorem test_C15_bvc :
    lands (machine (regs 0x00 0x00 0x00 0xFD 0x0200 0b000100)
        [(0x0200, 0x50), (0x0201, 0x02)])
      (regs 0x00 0x00 0x00 0xFD 0x0204 0b000100) [] 3 = true := by decide

/-- C16: `BVS *+4`, not taken. -/
theorem test_C16_bvs :
    lands (machine (regs 0x00 0x00 0x00 0xFD 0x0200 0b000100)
        [(0x0200, 0x70), (0x0201, 0x02)])
      (regs 0x00 0x00 0x00 0xFD 0x0202 0b000100) [] 2 = true := by decide

/-- C17: `BVS *-126`, offset 0x80 = -128: next 0x0282, target 0x0202. -/
theorem test_C17_bvs :
    lands (machine (regs 0x00 0x00 0x00 0xFD 0x0280 0b010000)
        [(0x0280, 0x70), (0x0281, 0x80)])
      (regs 0x00 0x00 0x00 0xFD 0x0202 0b010000) [] 3 = true := by decide

/-- C18: `BRK`, vector 0xFFFE holds 0x9000; pushed P = 0x33. -/
theorem test_C18_brk :
    lands (machine (regs 0x00 0x00 0x00 0xFD 0x0200 0b000011)
        [(0x0200, 0x00)])
      (regs 0x00 0x00 0x00 0xFA 0x9000 0b000111) [(0x01FD, 0x02), (0x01FC, 0x02), (0x01FB, 0x33)] 7 = true := by decide

/-- C19: `BRK`, I already 1, D kept; pushed 0xFF. -/
theorem test_C19_brk :
    lands (machine (regs 0x00 0x00 0x00 0xFD 0x0200 0b111111)
        [(0x0200, 0x00)])
      (regs 0x00 0x00 0x00 0xFA 0x9000 0b111111) [(0x01FD, 0x02), (0x01FC, 0x02), (0x01FB, 0xFF)] 7 = true := by decide

/-- C20: `RTI`. -/
theorem test_C20_rti :
    lands (machine (regs 0x00 0x00 0x00 0xFA 0x0200 0b000100)
        [(0x01FB, 0x33), (0x01FC, 0x02), (0x01FD, 0x80), (0x0200, 0x40)])
      (regs 0x00 0x00 0x00 0xFD 0x8002 0b000011) [] 6 = true := by decide

/-- C21: `RTI`, bits 5,4 of the pulled byte ignored. -/
theorem test_C21_rti :
    lands (machine (regs 0x00 0x00 0x00 0xFA 0x0200 0b000000)
        [(0x01FB, 0xFF), (0x01FC, 0x00), (0x01FD, 0x90), (0x0200, 0x40)])
      (regs 0x00 0x00 0x00 0xFD 0x9000 0b111111) [] 6 = true := by decide

/-- F1: `CLC`. -/
theorem test_F1_clc :
    lands (machine (regs 0x00 0x00 0x00 0xFD 0x0200 0b111111)
        [(0x0200, 0x18)])
      (regs 0x00 0x00 0x00 0xFD 0x0201 0b111110) [] 2 = true := by decide

/-- F2: `SEC`. -/
theorem test_F2_sec :
    lands (machine (regs 0x00 0x00 0x00 0xFD 0x0200 0b000100)
        [(0x0200, 0x38)])
      (regs 0x00 0x00 0x00 0xFD 0x0201 0b000101) [] 2 = true := by decide

/-- F3: `CLI`. -/
theorem test_F3_cli :
    lands (machine (regs 0x00 0x00 0x00 0xFD 0x0200 0b000100)
        [(0x0200, 0x58)])
      (regs 0x00 0x00 0x00 0xFD 0x0201 0b000000) [] 2 = true := by decide

/-- F4: `SEI`. -/
theorem test_F4_sei :
    lands (machine (regs 0x00 0x00 0x00 0xFD 0x0200 0b000000)
        [(0x0200, 0x78)])
      (regs 0x00 0x00 0x00 0xFD 0x0201 0b000100) [] 2 = true := by decide

/-- F5: `CLD`. -/
theorem test_F5_cld :
    lands (machine (regs 0x00 0x00 0x00 0xFD 0x0200 0b001000)
        [(0x0200, 0xD8)])
      (regs 0x00 0x00 0x00 0xFD 0x0201 0b000000) [] 2 = true := by decide

/-- F6: `SED`. -/
theorem test_F6_sed :
    lands (machine (regs 0x00 0x00 0x00 0xFD 0x0200 0b000100)
        [(0x0200, 0xF8)])
      (regs 0x00 0x00 0x00 0xFD 0x0201 0b001100) [] 2 = true := by decide

/-- F7: `CLV`. -/
theorem test_F7_clv :
    lands (machine (regs 0x00 0x00 0x00 0xFD 0x0200 0b010000)
        [(0x0200, 0xB8)])
      (regs 0x00 0x00 0x00 0xFD 0x0201 0b000000) [] 2 = true := by decide

/-- F8: `PHA`. -/
theorem test_F8_pha :
    lands (machine (regs 0x42 0x00 0x00 0xFD 0x0200 0b000100)
        [(0x0200, 0x48)])
      (regs 0x42 0x00 0x00 0xFC 0x0201 0b000100) [(0x01FD, 0x42)] 3 = true := by decide

/-- F9: `PHA`, wrap. -/
theorem test_F9_pha :
    lands (machine (regs 0x42 0x00 0x00 0x00 0x0200 0b000100)
        [(0x0200, 0x48)])
      (regs 0x42 0x00 0x00 0xFF 0x0201 0b000100) [(0x0100, 0x42)] 3 = true := by decide

/-- F10: `PHP`, 0xB5: bits 5 and 4 set in the pushed byte. -/
theorem test_F10_php :
    lands (machine (regs 0x00 0x00 0x00 0xFD 0x0200 0b100101)
        [(0x0200, 0x08)])
      (regs 0x00 0x00 0x00 0xFC 0x0201 0b100101) [(0x01FD, 0xB5)] 3 = true := by decide

/-- F11: `PHP`, 0x30. -/
theorem test_F11_php :
    lands (machine (regs 0x00 0x00 0x00 0xFD 0x0200 0b000000)
        [(0x0200, 0x08)])
      (regs 0x00 0x00 0x00 0xFC 0x0201 0b000000) [(0x01FD, 0x30)] 3 = true := by decide

/-- F12: `PLA`. -/
theorem test_F12_pla :
    lands (machine (regs 0x55 0x00 0x00 0xFC 0x0200 0b000100)
        [(0x01FD, 0x00), (0x0200, 0x68)])
      (regs 0x00 0x00 0x00 0xFD 0x0201 0b000110) [] 4 = true := by decide

/-- F13: `PLA`, wrap. -/
theorem test_F13_pla :
    lands (machine (regs 0x00 0x00 0x00 0xFF 0x0200 0b000100)
        [(0x0100, 0x80), (0x0200, 0x68)])
      (regs 0x80 0x00 0x00 0x00 0x0201 0b100100) [] 4 = true := by decide

/-- F14: `PLP`. -/
theorem test_F14_plp :
    lands (machine (regs 0x00 0x00 0x00 0xFC 0x0200 0b000100)
        [(0x01FD, 0xC3), (0x0200, 0x28)])
      (regs 0x00 0x00 0x00 0xFD 0x0201 0b110011) [] 4 = true := by decide

/-- F15: `PLP`, bits 5,4 ignored: all flags clear. -/
theorem test_F15_plp :
    lands (machine (regs 0x00 0x00 0x00 0xFC 0x0200 0b111111)
        [(0x01FD, 0x30), (0x0200, 0x28)])
      (regs 0x00 0x00 0x00 0xFD 0x0201 0b000000) [] 4 = true := by decide

/-- F16: `NOP`. -/
theorem test_F16_nop :
    lands (machine (regs 0x01 0x02 0x03 0xFD 0x0200 0b111111)
        [(0x0200, 0xEA)])
      (regs 0x01 0x02 0x03 0xFD 0x0201 0b111111) [] 2 = true := by decide

/-! Fetching: an instruction placed by its opcode-table bits is what the very next step runs. -/

/-- The CPU after one step, if there is one. -/
def cpuAfterStep (s : State) : Option Cpu :=
  match step s with
  | .next t => some t.cpu
  | _ => none

/-- The CPU after one CPU tick, if there is one. -/
def cpuAfterTick (s : State) : Option (Cpu × Mem) :=
  match cpuTick s with
  | .next t => some (t.cpu, t.ram)
  | _ => none

theorem test_withFetchWord_ldaImm :
    cpuAfterStep (State.reset.withFetchWord 16 0x55A9) =
      some { regs 0x55 0x00 0x00 0xFD 0x0002 0b000100 with pending := 1 } := by decide

theorem test_withFetchWord_jmpAbs :
    cpuAfterStep (State.reset.withFetchWord 24 0x12344C) =
      some { regs 0x00 0x00 0x00 0xFD 0x1234 0b000100 with pending := 2 } := by decide

/-! CPU ticks and interrupt entry (section 2.2). -/

/-- The state of vector I1, with any flags: an NMI is pending. -/
def nmiState (nvdizc : BitVec 6) : State :=
  let s := machine (regs 0x00 0x00 0x00 0xFD 0x8123 nvdizc) []
  { s with cpu := { s.cpu with nmiPending := true } }

/-- I1: NMI entry. -/
theorem test_I1_nmiEntry :
    cpuAfterTick (nmiState 0b100001) =
      some ({ regs 0x00 0x00 0x00 0xFA 0x9000 0b100101 with pending := 6 },
        bytes [(0x01FD, 0x81), (0x01FC, 0x23), (0x01FB, 0xA1)]) := by decide

/-- I2: the I flag does not mask an NMI. -/
theorem test_I2_nmiNotMasked :
    cpuAfterTick (nmiState 0b100101) =
      some ({ regs 0x00 0x00 0x00 0xFA 0x9000 0b100101 with pending := 6 },
        bytes [(0x01FD, 0x81), (0x01FC, 0x23), (0x01FB, 0xA5)]) := by decide

/-- I3: the halt counter comes before the ticks owed, and both before the NMI. -/
theorem test_I3_haltFirst :
    cpuAfterTick { State.reset with cpu := { State.reset.cpu with halt := 2, pending := 1, nmiPending := true } } =
      some ({ State.reset.cpu with halt := 1, pending := 1, nmiPending := true }, []) := by decide

theorem test_I3_pendingNext :
    cpuAfterTick { State.reset with cpu := { State.reset.cpu with pending := 1, nmiPending := true } } =
      some ({ State.reset.cpu with nmiPending := true }, []) := by decide

/-! The bus (section 2.3). -/

/-- B1: the mirror at 0x1810. -/
theorem test_B1_ramMirror : (rd 0x1810 (wr 0x0010 0x5A State.reset)).1 = 0x5A := by decide

/-- B2: the last address of work RAM. -/
theorem test_B2_ramTop : Mem.read (wr 0x1FFF 0x77 State.reset).ram 0x07FF = 0x77 := by decide

/-- B4: a write to PPUSTATUS does nothing. -/
theorem test_B4_statusWrite : (wr 0x2002 0xFF State.reset).ppu = State.reset.ppu := by decide

/-- B6: a reset vector of 0x34, 0x12 is 0x1234. -/
theorem test_B6_littleEndian :
    (machineReset { State.reset with
      cart := { State.reset.cart with prg := bytes [(0x3FFC, 0x34), (0x3FFD, 0x12)] } }).cpu.pc = 0x1234 := by decide

/-! The controller (section 2.4). -/

/-- K1: A alone comes last. -/
theorem test_K1_lastBit :
    (eightReads { State.reset with ctrlShift := 0x01 }).1 = [0, 0, 0, 0, 0, 0, 0, 1] := by decide

/-- K2: right and start. -/
theorem test_K2_bitOrder :
    (eightReads { State.reset with ctrlShift := 0x88 }).1 = [1, 0, 0, 0, 1, 0, 0, 0] := by decide

/-! The mapper (section 2.6). -/

/-- Five data writes of `val`, lowest bit first, to address `a`, with four program banks. -/
def commits (val : BitVec 5) (a : Word) (m : Mapper) : Mapper :=
  (List.range 5).foldl (fun m k => mapperWrite 4 a (if val.getLsbD k then 0x01 else 0x00) m) m

/-- M1. -/
theorem test_M1_control : commits 0x0E 0x8000 (Mapper.reset 4) = { Mapper.reset 4 with ctrl := 0x0E } := by decide

/-- M2, from M1's state: program mode 3. -/
theorem test_M2_mode3 :
    commits 0x02 0xE000 { Mapper.reset 4 with ctrl := 0x0E } =
      { Mapper.reset 4 with ctrl := 0x0E, prgFirst := 2, prgSecond := 3 } := by decide

/-- M4: program mode 2. -/
theorem test_M4_mode2 :
    commits 0x01 0xFFFF { Mapper.reset 4 with ctrl := 0x08, prgFirst := 2 } =
      { Mapper.reset 4 with ctrl := 0x08, prgFirst := 0, prgSecond := 1 } := by decide

/-- M6: program mode 0. -/
theorem test_M6_merged :
    commits 0x03 0xE000 { Mapper.reset 4 with ctrl := 0x00 } =
      { Mapper.reset 4 with ctrl := 0x00, prgMerged := 1 } := by decide

/-- M7 and M9: the graphics registers. -/
theorem test_M7_chrMerged :
    commits 0x15 0xA000 { Mapper.reset 4 with ctrl := 0x00 } =
      { Mapper.reset 4 with ctrl := 0x00, chrMerged := 10 } := by decide

theorem test_M9_chrFirst :
    commits 0x15 0xBFFF { Mapper.reset 4 with ctrl := 0x1C } =
      { Mapper.reset 4 with ctrl := 0x1C, chrFirst := 21 } := by decide

/-- M11: a reset write in the middle of a sequence. -/
theorem test_M11_resetWrite :
    mapperWrite 4 0xFFFF 0x80 { Mapper.reset 4 with ctrl := 0x1C, sr := 0x0E, wc := 3 } = Mapper.reset 4 := by decide

/-- M14: bits 6 to 1 of a data byte are ignored. -/
theorem test_M14_bitZeroOnly :
    mapperWrite 4 0x8000 0x7F (Mapper.reset 4) = { Mapper.reset 4 with sr := 0x18, wc := 1 } := by decide

/-! PPU registers and timing (sections 2.7, 2.8). -/

/-- The reset machine with this PPU. -/
def withPpu (p : Ppu) : State := { State.reset with ppu := p }

/-- U1: reading the status at a mirror. -/
theorem test_U1_statusMirror : (rd 0x3FFA (withPpu { Ppu.reset with status := 0x80 })).1 = 0x80 := by decide

theorem test_U1_statusClears :
    (rd 0x2002 (withPpu { Ppu.reset with status := 0xC0, w := true })).2.ppu = Ppu.reset := by decide

/-- U3: scroll and address share the toggle. -/
theorem test_U3_sharedToggle :
    (wr 0x2006 0x22 (wr 0x2005 0x11 State.reset)).ppu = { Ppu.reset with hscroll := 0x11, addr := 0x0022 } := by decide

/-- U5: the palette alias. -/
theorem test_U5_paletteAlias :
    (wr 0x2007 0x2A (withPpu { Ppu.reset with addr := 0x3F10 })).ppu =
      { Ppu.reset with addr := 0x3F11, pal := [(0, 0x2A)] } := by decide

/-- U6: the address register keeps 16 bits, the bus takes 14. -/
theorem test_U6_addressReduction :
    rd 0x2007 (withPpu { Ppu.reset with addr := 0x7F00, pal := [(0, 0x2A)] }) =
      (0x2A, withPpu { Ppu.reset with addr := 0x7F01, pal := [(0, 0x2A)] }) := by decide

/-- U7: graphics storage. -/
theorem test_U7_graphics :
    (wr 0x2007 0x99 (withPpu { Ppu.reset with addr := 0x1000 })).cart.chr = [(0x1000, 0x99)] := by decide

/-- U8: mirroring 2 puts logical table 1 into physical table 1. -/
theorem test_U8_nametable :
    (wr 0x2007 0x66 { withPpu { Ppu.reset with addr := 0x2400 } with
      mp := { Mapper.reset 1 with ctrl := 0x02 } }).ppu.nt = [(1024, 0x66)] := by decide

/-- U9: the OAM address wraps. -/
theorem test_U9_oamWrap :
    (wr 0x2004 0x02 (withPpu { Ppu.reset with oamaddr := 0xFF })).ppu = { Ppu.reset with oam := [(0xFF, 0x02)] } := by
  decide

/-- S3, S4: the vblank tick with NMI enabled. -/
theorem test_S4_vblank :
    ((ppuTick (withPpu { Ppu.reset with ctrl := 0x80, scanline := 241, dot := 1 })).cpu.nmiPending
      && (ppuTick (withPpu { Ppu.reset with scanline := 241, dot := 1 })).ppu.status.getLsbD 7) = true := by decide

/-- S3: the pre-render tick clears bits 7 and 6. -/
theorem test_S3_preRender :
    (ppuTick (withPpu { Ppu.reset with status := 0xC0, scanline := 261, dot := 1 })).ppu.status = 0x00 := by
  unfold ppuTick
  simp [withPpu, Ppu.reset, ppuAdvance, ppuEvents, statusEvents, vblankDue, lineWidth, spr0HitScanline]

/-- S2: an odd frame ends at (261, 339). -/
theorem test_S2_oddFrameEnds :
    ((ppuTick (withPpu { Ppu.reset with scanline := 261, dot := 339, frame := 1 })).ppu.dot,
      (ppuTick (withPpu { Ppu.reset with scanline := 261, dot := 339, frame := 1 })).ppu.frame) = (0, 2) := by decide

/-! APU (section 2.9), on the channel functions. -/

/-- Q1: the pulse registers. -/
theorem test_Q1_pulse :
    pulseWrite (pulseWrite (pulseWrite Pulse.reset 0 0x80) 2 0x00) 3 0x29 =
      { Pulse.reset with
        reg := #v[0x80, 0, 0x00, 0x29], duty := 2, timer := 0x100, length := 4, env := 15 } := by decide

/-- Q3: disabling zeroes the length. -/
theorem test_Q3_disable :
    (statusWrite { Apu.reset with p1 := { Pulse.reset with length := 4 } } 0x00).p1.length = 0 := by decide

/-- Q4: the envelope divider, ticks 1 to 3. -/
theorem test_Q4_envelope :
    (envelopeStep 2 false 15 2, envelopeStep 2 false 15 1, envelopeStep 2 false 15 0) = ((15, 1), (15, 0), (14, 2)) := by
  decide

/-- Q6: timer 7 is silent. -/
theorem test_Q6_silent :
    (pulseSample { Pulse.reset with constVol := true, vol := 15, timer := 7, length := 254 } true 48000).1 = 0 := by
  decide

/-- Q7: the first 120 Hz tick reloads the linear counter. -/
theorem test_Q7_linearReload :
    triTick120 { Triangle.reset with reloadValue := 5, length := 254, reload := true } =
      { Triangle.reset with reloadValue := 5, length := 253, linear := 5 } := by decide

/-- Q9: the noise register, mode 0, sixteen shifts from the seed. -/
theorem test_Q9_noise : times (lfsrStep false) 16 1 = 0x6000 := by decide

/-- Q9: mode 1, twelve shifts. -/
theorem test_Q9_noiseShort : times (lfsrStep true) 12 1 = 0x1008 := by decide

/-- Q11: the mixer's zero. -/
theorem test_Q11_mixZero : apuMix 0 0 0 0 0 = 0 := by simp [apuMix, pulseMix, tndMix]

/-- Q11: one pulse at level 1 is 95.88 / 8228. -/
theorem test_Q11_mixOne : apuMix 1 0 0 0 0 = 9588 / 822800 := by norm_num [apuMix, pulseMix, tndMix]

/-- Q12: the delta-modulation registers are stored. -/
theorem test_Q12_dmc : (apuWrite 0x4011 0x7F Apu.reset).map Apu.dmc = some #v[0, 0x7F, 0, 0] := by decide

/-! Reset and snapshot (section 2.10). -/

/-- Z1: the reset state of the mapper with four banks, and the program counter. -/
theorem test_Z1_reset :
    ((machineReset { State.reset with
        cart := { State.reset.cart with prgBanks := 4, prg := bytes [(0xFFFD, 0xC0)] } }).cpu.pc,
      (machineReset { State.reset with
        cart := { State.reset.cart with prgBanks := 4, prg := [] } }).mp.prgSecond) = (0xC000, 3) := by decide

/-- Z4: a snapshot that is too old. -/
theorem test_Z4_tooOld : restore 2 State.reset (snapshot 1 State.reset) = .fault .snapshotTooOld := by rfl

/-! Witnesses: for every obligation with hypotheses, values that meet them together, clause by clause. -/

theorem witness_DecodedCodeIsTheEncoding : decode [0xFE, 0xFF, 0xFF, 0x00] = some (.incAbsx 0xFFFF, [0x00]) := by decide

theorem witness_UndocumentedOpcodesRefused :
    (0x02 : Byte) ∈ undocumentedOpcodes ∧ (0xFF : Byte) ∈ undocumentedOpcodes ∧ (0x00 : Byte) ∉ undocumentedOpcodes ∧
    (0xFE : Byte) ∉ undocumentedOpcodes ∧
    (rd 0x0200 (machine (regs 0 0 0 0xFD 0x0200 0) [(0x0200, 0xFF)])).1 ∈ undocumentedOpcodes := by decide

/-- A machine in which the next step reaches the instruction at `pc`. -/
def due (pc : Word) (l : List (Nat × Byte)) : State := { machine (regs 0 0 0 0xFD pc 0b000100) l with cpuDiv := 2 }

theorem witness_InstructionDue (pc : Word) (l : List (Nat × Byte)) : InstructionDue (due pc l) :=
  ⟨rfl, rfl, rfl, rfl, by show ¬ ((0 : Nat) = 241 ∧ _); omega, fun h => by cases h⟩

/-- A state that reaches an undocumented byte, and one that reaches no instruction. -/
theorem witness_OnlyUndocumentedOpcodesStop :
    InstructionDue (due 0x0200 [(0x0200, 0x02)]) ∧
    (rd (dotPrelude (due 0x0200 [(0x0200, 0x02)])).cpu.pc (dotPrelude (due 0x0200 [(0x0200, 0x02)]))).1 ∈
      undocumentedOpcodes ∧
    ¬ (InstructionDue State.reset ∧
      (rd (dotPrelude State.reset).cpu.pc (dotPrelude State.reset)).1 ∈ undocumentedOpcodes) :=
  ⟨witness_InstructionDue _ _, by decide, fun h => absurd h.1.divider (by decide)⟩

/-- First clause: the code comes from bus reads, here of PPU registers at 0x2000 (0x00 is BRK). -/
theorem witness_StepRunsTheDecodedInstruction_anywhere :
    decode [(rd 0x2000 (dotPrelude (due 0x2000 []))).1, 0x00, 0x00] = some (.brk, [0x00, 0x00]) := by decide

/-- Second clause: code at the top of work RAM's window, and at the start and the end of program storage. -/
theorem witness_StepRunsTheDecodedInstruction_storage :
    decode [peek 0x1FFD (dotPrelude (due 0x1FFD [(0x07FD, 0xEA)])), 0x00, 0x00] = some (.nop, [0x00, 0x00]) ∧
    decode [peek 0x8000 (dotPrelude (due 0x8000 [])), 0x00, 0x00] = some (.brk, [0x00, 0x00]) ∧
    (∀ k : Fin 3, ((0x1FFD : Word) + BitVec.ofNat 16 k.val).toNat ≤ 0x1FFF ∧
      0x8000 ≤ ((0xFFFD : Word) + BitVec.ofNat 16 k.val).toNat ∧
      0x8000 ≤ ((0x8000 : Word) + BitVec.ofNat 16 k.val).toNat) := by decide

theorem witness_DotStepOrder :
    State.reset.cpuDiv < 2 ∧ ({ State.reset with cpuDiv := 1 } : State).cpuDiv < 2 ∧
    ({ State.reset with cpuDiv := 2 } : State).cpuDiv = 2 := by decide

/-- One CPU for each clause of CpuTickOrder. -/
theorem witness_CpuTickOrder :
    (0 < ({ State.reset.cpu with halt := 1 } : Cpu).halt) ∧
    (State.reset.cpu.halt = 0 ∧ 0 < ({ State.reset.cpu with pending := 1 } : Cpu).pending) ∧
    ((nmiState 0).cpu.halt = 0 ∧ (nmiState 0).cpu.pending = 0 ∧ (nmiState 0).cpu.nmiPending = true) ∧
    (({ regs 0 0 0 0 0 0 with irqPending := true } : Cpu).halt = 0 ∧
      ({ regs 0 0 0 0 0 0 with irqPending := true } : Cpu).pending = 0 ∧
      ({ regs 0 0 0 0 0 0 with irqPending := true } : Cpu).nmiPending = false ∧
      ({ regs 0 0 0 0 0 0 with irqPending := true } : Cpu).irqPending = true ∧
      ({ regs 0 0 0 0 0 0 with irqPending := true } : Cpu).p.i = false) ∧
    (State.reset.cpu.halt = 0 ∧ State.reset.cpu.pending = 0 ∧ State.reset.cpu.nmiPending = false ∧
      State.reset.cpu.irqPending = false) := by decide

/-- A step that answers a next state: for IrqLineNeverChanges and ProgramStorageIsImmutable. -/
theorem witness_step_next : ∃ t, step State.reset = .next t := ⟨dotPrelude State.reset, rfl⟩

theorem witness_MachineResetEffect :
    1 ≤ (machine (regs 0 0 0 0 0 0) []).cart.prgBanks ∧
    1 ≤ { State.reset.cart with prgBanks := 33 }.prgBanks := by decide

/-- A state that is legal and steps: the machine with an instruction in RAM, at the first dot. -/
theorem witness_EveryStepKeepsLegal :
    Legal (machine (regs 1 2 3 0xFD 0x0200 0b000100) [(0x0200, 0xEA)]) ∧
    ∃ t, step (machine (regs 1 2 3 0xFD 0x0200 0b000100) [(0x0200, 0xEA)]) = .next t :=
  ⟨⟨⟨by decide, by decide, by decide, by decide, by decide, by decide, by decide⟩, ⟨by decide, by decide, by decide⟩,
      ⟨by decide, by decide, rfl⟩, by decide, bridgeReset_legal, ⟨by decide, by decide⟩, ⟨by decide, by decide, by decide⟩,
      apuReset_legal⟩,
    ⟨dotPrelude _, rfl⟩⟩

theorem witness_SnapshotRestoresTheMachine :
    ((1 : Nat) ≤ 1 ∧ State.reset.cart.prg = State.reset.cart.prg ∧
      State.reset.cart.prgBanks = State.reset.cart.prgBanks) ∧
    (0 : Nat) < 1 := by decide

theorem witness_MachineConstruction :
    (0 : Nat) ≠ 1 ∧ cartridgeValid (cartridgeOfPrg 1 [(0x3FFF, 0x90)]) = true ∧
    cartridgeValid { prgBanks := 1, prg := [(0x3FFF, 0x90)], chrSize := 0, chr := [] } = true ∧
    Mem.wf [(0x07FF, 0x01)] = true ∧ Mem.below 2048 [(0x07FF, 0x01)] = true ∧
    (cartridgeOfPrg 1 []).chrSize ≠ 0 ∧
    ¬ (cartridgeValid { prgBanks := 0, prg := [], chrSize := 8192, chr := [] } = true) ∧
    ¬ (cartridgeValid { prgBanks := 1, prg := [], chrSize := 0, chr := [(0, 0x01)] } = true) := by decide

/-- An empty `CHR_INIT` gives two 8 KB banks (R480). -/
theorem test_construct_without_graphics :
    (match machineNew 1 { prgBanks := 1, prg := [], chrSize := 0, chr := [] } [] with
      | .next t => t.cart.chrSize
      | _ => 0) = 16384 := by decide

/-- With 40 banks the reset vector is read from the last one, bytes 655356 and 655357 (R502). -/
theorem test_reset_last_of_many_banks :
    (machineReset
      { State.reset with
        cart := { State.reset.cart with prgBanks := 40, prg := [(655356, 0x34), (655357, 0x92)] } }).cpu.pc = 0x9234 := by
  decide

theorem port_lowest : 0x4020 ≤ hostcallPort.toNat ∧ hostcallPort.toNat ≤ 0x7FFF := by
  have h := Config.hostcallOffset.isLt
  have e : hostcallPort.toNat = 0x4020 + Config.hostcallOffset.val := by
    unfold hostcallPort; rw [BitVec.toNat_ofNat]; omega
  omega

theorem witness_UnmappedAddresses :
    (0x2000 ≤ (0x2000 : Word).toNat ∧ (0x2000 : Word).toNat ≤ 0x3FFF ∧ (0x2000 : Word).toNat % 8 ∈ [0, 1, 3, 5, 6]) ∧
    (0x2000 ≤ (0x3FFE : Word).toNat ∧ (0x3FFE : Word).toNat ≤ 0x3FFF ∧ (0x3FFE : Word).toNat % 8 ∈ [0, 1, 3, 5, 6]) ∧
    (0x4000 ≤ (0x4000 : Word).toNat ∧ (0x400F : Word).toNat ≤ 0x400F) ∧ (0x4014 : Word).toNat = 0x4014 ∧
    (0x4017 : Word).toNat = 0x4017 ∧ 0x4018 ≤ (0x4018 : Word).toNat ∧ (0x401F : Word).toNat ≤ 0x7FFF := by decide

theorem witness_UnmappedAddresses_notPort : (0x4018 : Word) ≠ hostcallPort ∧ (0x401F : Word) ≠ hostcallPort := by
  have h := port_lowest
  constructor <;> exact fun e => by rw [← e] at h; revert h; decide

theorem witness_WorkRamIsMirrored :
    (0x1FFF : Word).toNat ≤ 0x1FFF ∧ (0x07FF : Word).toNat ≤ 0x1FFF ∧
    (0x07FF : Word).toNat % 2048 = (0x1FFF : Word).toNat % 2048 ∧ Mem.wf State.reset.ram = true := by decide

theorem witness_program_addresses :
    0x8000 ≤ (0x8000 : Word).toNat ∧ 0x8000 ≤ (0xFFFF : Word).toNat ∧ (0x1FFF : Word).toNat < 0x2000 := by decide

/-- Addresses whose reads change nothing at all: beside each excluded one. -/
theorem witness_ReadsKeepMemoryAndCpu :
    ∀ a ∈ [(0x2001 : Word), 0x2006, 0x3FFE, 0x4014, 0x4017, 0x400F, 0x0000, 0xFFFF],
      ¬ ppuPort 2 a ∧ ¬ ppuPort 7 a ∧ a ≠ 0x4016 ∧ ¬ (0x4010 ≤ a.toNat ∧ a.toNat ≤ 0x4013) ∧ a ≠ 0x4015 := by
  intro a h
  fin_cases h <;> (unfold ppuPort; decide)

theorem witness_WritesKeepOtherBytes : (0x4013 : Word) ≠ 0x4014 ∧ (0x4015 : Word) ≠ 0x4014 := by decide

theorem witness_ControllerPort :
    (0xFF : Byte).getLsbD 0 = true ∧ (0xFE : Byte).getLsbD 0 = false ∧ State.reset.ctrlShift = 0x00 := by decide

theorem witness_HostCallProtocol :
    ({ HostCall.reset with phase := .inCall } : HostCall).phase = .inCall ∧ HostCall.reset.phase = .idle ∧
    ({ HostCall.reset with phase := .collecting, got := 3 } : HostCall).phase = .collecting := by decide

/-- The fifth address at both ends of each of its four ranges; data bytes with bit 7 clear; a reset byte. -/
theorem witness_MapperSerialProtocol :
    State.reset.mp.wc = 0 ∧ State.reset.mp.wc < 4 ∧
    (∀ a ∈ [(0x8000 : Word), 0x9FFF, 0xA000, 0xBFFF, 0xC000, 0xDFFF, 0xE000, 0xFFFF], 0x8000 ≤ a.toNat) ∧
    (0x7F : Byte).getLsbD 7 = false ∧ (0x80 : Byte).getLsbD 7 = true := by
  refine ⟨rfl, by decide, fun a h => ?_, rfl, rfl⟩
  fin_cases h <;> decide

/-- The first and the last mirror of each PPU register. -/
theorem witness_ppuPort :
    ∀ n : Fin 8, ppuPort n.val (0x2000 + BitVec.ofNat 16 n.val) ∧ ppuPort n.val (0x3FF8 + BitVec.ofNat 16 n.val) := by
  intro n
  fin_cases n <;> (unfold ppuPort; decide)

theorem witness_PpuScrollAndAddress :
    Ppu.reset.w = false ∧ ({ Ppu.reset with w := true } : Ppu).w = true ∧ Mem.wf Ppu.reset.oam = true := by decide

/-- The data port at both ends of its three ranges, and above the 14 bits of the bus. -/
theorem witness_PpuDataPort :
    (BitVec.ofNat 14 0x1FFF : PpuAddr).toNat < 0x2000 ∧ 0x2000 ≤ (BitVec.ofNat 14 0x2000 : PpuAddr).toNat ∧
    (BitVec.ofNat 14 0x3EFF : PpuAddr).toNat < 0x3F00 ∧ 0x3F00 ≤ (BitVec.ofNat 14 0x3F00 : PpuAddr).toNat ∧
    (BitVec.ofNat 14 0x4000 : PpuAddr).toNat < 0x2000 := by decide

theorem witness_NametableAndPaletteFolds :
    (0x2000 ≤ (0x2000 : PpuAddr).toNat ∧ (0x2000 : PpuAddr).toNat ≤ 0x3EFF) ∧
    (0x2000 ≤ (0x3EFF : PpuAddr).toNat ∧ (0x3EFF : PpuAddr).toNat ≤ 0x3EFF) := by decide

theorem witness_SpriteDma : (0x1F : Byte).toNat ≤ 0x1F ∧ Mem.wf State.reset.ppu.oam = true := by decide

/-- Mid-line; the end of a line; the end of an even and of an odd frame. -/
theorem witness_PpuPositionAdvances :
    Ppu.reset.dot + 1 ≠ lineWidth Ppu.reset ∧
    (340 + 1 = lineWidth { Ppu.reset with dot := 340, scanline := 260 } ∧ 260 + 1 ≠ 262) ∧
    (340 + 1 = lineWidth { Ppu.reset with dot := 340, scanline := 261 } ∧ 261 + 1 = 262) ∧
    339 + 1 = lineWidth { Ppu.reset with dot := 339, scanline := 261, frame := 1 } := by decide

theorem witness_FrameLength :
    (State.reset.ppu.dot = 0 ∧ State.reset.ppu.scanline = 0 ∧ State.reset.ppu.frame % 2 = 0) ∧
    ((withPpu { Ppu.reset with frame := 1 }).ppu.dot = 0 ∧
      (withPpu { Ppu.reset with frame := 1 }).ppu.frame % 2 ≠ 0) ∧
    (0 < 89340 ∧ 89340 < 89341) := by decide

/-- No pass, one pass exactly at a whole unit, and two at a low rate. -/
theorem witness_FrameSequencerCascade :
    ((0 : Rat) < 48000 ∧ ((0 : Nat) : Rat) ≤ Apu.reset.fs.acc + 240 / 48000 ∧
      Apu.reset.fs.acc + 240 / 48000 < ((0 : Nat) : Rat) + 1) ∧
    ((0 : Rat) < 240 ∧ ((1 : Nat) : Rat) ≤ Apu.reset.fs.acc + 240 / 240 ∧
      Apu.reset.fs.acc + 240 / 240 < ((1 : Nat) : Rat) + 1) ∧
    ((0 : Rat) < 120 ∧ ((2 : Nat) : Rat) ≤ Apu.reset.fs.acc + 240 / 120 ∧
      Apu.reset.fs.acc + 240 / 120 < ((2 : Nat) : Rat) + 1) ∧
    Apu.reset.fs.n120 = false ∧ Apu.reset.fs.n60 = false := by
  norm_num [Apu.reset]

/-- Each way to be silent, at its boundary, and a sounding channel at the same boundary. -/
theorem witness_ChannelSamples :
    ({ Pulse.reset with timer := 7, length := 1 } : Pulse).timer.toNat < 8 ∧ Pulse.reset.length = 0 ∧
    (8 ≤ ({ Pulse.reset with timer := 8, length := 1 } : Pulse).timer.toNat ∧
      ({ Pulse.reset with timer := 8, length := 1 } : Pulse).length ≠ 0) ∧
    Triangle.reset.linear = 0 ∧
    (({ Triangle.reset with length := 1, linear := 1 } : Triangle).length ≠ 0 ∧
      ({ Triangle.reset with length := 1, linear := 1 } : Triangle).linear ≠ 0) := by decide

/-- One whole period at a rate equal to the shift rate of period 4, and none just below it. -/
theorem witness_NoiseSample :
    (((1 : Nat) : Rat) ≤ Noise.reset.phase + 1789773 / ((noisePeriodTable.getD 0 1 : Nat) : Rat) / (1789773 / 4) ∧
      Noise.reset.phase + 1789773 / ((noisePeriodTable.getD 0 1 : Nat) : Rat) / (1789773 / 4) < (1 : Nat) + 1) ∧
    (((0 : Nat) : Rat) ≤ Noise.reset.phase + 1789773 / ((noisePeriodTable.getD 0 1 : Nat) : Rat) / 1789773 ∧
      Noise.reset.phase + 1789773 / ((noisePeriodTable.getD 0 1 : Nat) : Rat) / 1789773 < (0 : Nat) + 1) := by
  norm_num [Noise.reset, noisePeriodTable]

/-- A legal pull and the two ways a pull is not legal. -/
theorem witness_SampleStepAndPull :
    ((0 : Rat) < 44100 ∧ 1 ≤ (1 : Nat)) ∧ ¬ ((0 : Rat) < 0 ∧ 1 ≤ (1 : Nat)) ∧ ¬ ((0 : Rat) < 44100 ∧ 1 ≤ (0 : Nat)) := by
  norm_num

theorem witness_NoiseRegisterNeverZero : (1 : BitVec 15) ≠ 0 := by decide

/-- LoadInstructions: every row at an extreme operand. -/
theorem witness_LoadInstructions :
    ldaRow (.indy 0xFF) = some ⟨0xB1, .ldaIndy 0xFF, 5, true⟩ ∧
    ldxRow (.absy 0xFFFF) = some ⟨0xBE, .ldxAbsy 0xFFFF, 4, true⟩ ∧
    ldyRow (.absx 0x0000) = some ⟨0xBC, .ldyAbsx 0x0000, 4, true⟩ := by decide

/-- StoreInstructions: a row, an effective address at the top of work RAM, one beside the DMA port. -/
theorem witness_StoreInstructions :
    staRow (.abs 0x1FFF) = some ⟨0x8D, .staAbs 0x1FFF, 4, false⟩ ∧
    stxRow (.zpy 0xFF) = some ⟨0x96, .stxZpy 0xFF, 4, false⟩ ∧
    styRow (.zp 0x00) = some ⟨0x84, .styZp 0x00, 3, false⟩ ∧
    (effAddr (.abs 0x1FFF) State.reset).addr.toNat ≤ 0x1FFF ∧ Mem.wf State.reset.ram = true ∧
    (effAddr (.abs 0x4015) State.reset).addr ≠ dmaPort := by decide

theorem witness_AddAndSubtract :
    adcRow (.zpx 0xFF) = some ⟨0x75, .adcZpx 0xFF, 4, false⟩ ∧
    sbcRow (.absy 0xFFFF) = some ⟨0xF9, .sbcAbsy 0xFFFF, 4, true⟩ := by decide

theorem witness_LogicInstructions :
    andRow (.abs 0xFFFF) = some ⟨0x2D, .andAbs 0xFFFF, 4, false⟩ ∧
    oraRow (.indx 0xFF) = some ⟨0x01, .oraIndx 0xFF, 6, false⟩ ∧
    eorRow (.indy 0x00) = some ⟨0x51, .eorIndy 0x00, 5, true⟩ := by decide

theorem witness_CompareAndBitTest :
    cmpRow (.absx 0xFFFF) = some ⟨0xDD, .cmpAbsx 0xFFFF, 4, true⟩ ∧
    cpxRow (.abs 0xFFFF) = some ⟨0xEC, .cpxAbs 0xFFFF, 4, false⟩ ∧
    cpyRow (.zp 0xFF) = some ⟨0xC4, .cpyZp 0xFF, 3, false⟩ ∧
    bitRow (.zp 0x00) = some ⟨0x24, .bitZp 0x00, 3, false⟩ := by decide

/-- ShiftsAndRotates: rows, and the inner premises at the top of work RAM. -/
theorem witness_ShiftsAndRotates :
    aslRow (.absx 0x1F00) = some ⟨0x1E, .aslAbsx 0x1F00, 7, false⟩ ∧
    lsrRow (.zpx 0xFF) = some ⟨0x56, .lsrZpx 0xFF, 6, false⟩ ∧
    rolRow (.abs 0xFFFF) = some ⟨0x2E, .rolAbs 0xFFFF, 6, false⟩ ∧
    rorRow (.zp 0x00) = some ⟨0x66, .rorZp 0x00, 5, false⟩ ∧
    (effAddr (.absx 0x1F00) (machine (regs 0 0xFF 0 0 0 0) [])).addr.toNat = 0x1FFF ∧
    Mem.wf (machine (regs 0 0xFF 0 0 0 0) []).ram = true ∧
    (effAddr (.absx 0x1F00) (machine (regs 0 0xFF 0 0 0 0) [])).addr ≠ dmaPort := by decide

theorem witness_IncrementsAndDecrements :
    incRow (.absx 0xFFFF) = some ⟨0xFE, .incAbsx 0xFFFF, 7, false⟩ ∧
    decRow (.zp 0xFF) = some ⟨0xC6, .decZp 0xFF, 5, false⟩ := by decide

/-- The stack at both ends of its page: slots, other indexes, and a canonical work RAM. -/
theorem witness_stack :
    Mem.wf State.reset.ram = true ∧ slot 0x00 = 0x0100 ∧ slot (0x00 - 1) = 0x01FF ∧ (0x0200 : Nat) ≠ slot 0xFF ∧
    (0x00FF : Nat) ≠ slot 0x00 ∧ (0x0101 : Nat) ≠ slot 0x00 := by decide

theorem witness_EffectiveAddresses :
    (Mode.zp 0xFF = .zp 0xFF ∨ Mode.zp 0xFF = .zpx 0xFF) ∧ (effAddr (.abs 0x4015) State.reset).addr = 0x4015 := by
  decide

end Sys2Proof.Tests
end

section
/-! The invariant of a legal state (spec/10_state.md): reset meets it and every step keeps it; and the reset state itself. -/

namespace Sys2Proof.Proofs

open Sys2Proof Sys2Proof.Machine Sys2Proof.Safety Sys2Proof.Claims Sys2Proof.Laws

/-- An interrupt sequence, its 7 ticks included, keeps the state legal (R704, R706). -/
theorem retire_interruptEntry_legal (vector : Word) {s : State} (hs : Legal s) :
    Legal (retire 7 (interruptEntry vector s)) :=
  retire_inv (le_refl 7) (enterHandler_inv s.cpu.pc false vector hs)

theorem haltCpu_pred_legal {s : State} (hs : Legal s) : Legal (haltCpu (s.cpu.halt - 1) s) :=
  inv_cpu hs ⟨hs.cpu.pending, (Nat.sub_le _ _).trans hs.cpu.halt, hs.cpu.noIrq⟩

theorem setPending_pred_legal {s : State} (hs : Legal s) : Legal (setPending (s.cpu.pending - 1) s) :=
  inv_cpu hs ⟨(Nat.sub_le _ _).trans hs.cpu.pending, hs.cpu.halt, hs.cpu.noIrq⟩

/-- A CPU tick that answers a next state keeps the state legal, whichever branch of R707 it takes. -/
theorem cpuTick_legal {s t : State} (hs : Legal s) (h : cpuTick s = .next t) : Legal t := by
  obtain ⟨_, rfl⟩ | ⟨_, _, rfl⟩ | ⟨_, _, _, rfl⟩ | ⟨_, _, _, _, _, rfl⟩ | ⟨_, _, _, _, i, _, hexec⟩ := cpuTick_cases h
  · exact haltCpu_pred_legal hs
  · exact setPending_pred_legal hs
  · exact retire_interruptEntry_legal nmiVector (setNmi_inv false hs)
  · exact retire_interruptEntry_legal irqVector hs
  · exact exec_inv i (fetchInstr_inv hs) hexec

/-- Settles O13: the prelude keeps the state legal, and so does the CPU tick where one is due. -/
theorem everyStepKeepsLegal : Obligations.EveryStepKeepsLegal := by
  intro s t hs hstep
  have hprelude := dotPrelude_inv hs
  obtain ⟨_, rfl⟩ | ⟨_, htick⟩ := step_cases hstep
  · exact hprelude
  · exact cpuTick_legal hprelude htick

theorem storagesLegal_reset : StoragesLegal State.reset where
  canonical := rfl
  ramSize := rfl
  prgSize := rfl
  chrSize := rfl
  ntSize := rfl
  oamSize := rfl
  palSize := rfl

theorem cartridgeLegal_reset : CartridgeLegal State.reset.cart := ⟨by decide, by decide, by decide⟩

theorem cpuLegal_reset (pc : Word) : CpuLegal (Cpu.reset pc) := ⟨Nat.zero_le 6, Nat.zero_le 514, rfl⟩

/-- By the second alternative of `MapperLegal.second`: reset shows the last bank (R46, R502; n18). -/
theorem mapperLegal_reset {banks : Nat} (hbanks : 1 ≤ banks) : MapperLegal banks (Mapper.reset banks) :=
  ⟨Nat.zero_le 4, .inr (Nat.sub_add_cancel hbanks)⟩

theorem ppuLegal_reset : PpuLegal Ppu.reset := ⟨by decide, by decide, by decide⟩

/-- Settles O12, part by part. -/
theorem legalAtReset : Obligations.LegalAtReset where
  storages := storagesLegal_reset
  cart := cartridgeLegal_reset
  cpu := cpuLegal_reset 0x0000
  divider := Nat.zero_le 2
  bridge := bridgeReset_legal
  mapper := mapperLegal_reset (le_refl 1)
  ppu := ppuLegal_reset
  apu := apuReset_legal

/-- The reset vector of the blank cartridge: the pair of bytes that its only bank shows at 0xFFFC and 0xFFFD (R502). -/
theorem reset_pc_eq_vector :
    State.reset.cpu.pc =
      Mem.read State.reset.cart.prg (State.reset.cart.prgBanks * 16384 - 3) ++
        Mem.read State.reset.cart.prg (State.reset.cart.prgBanks * 16384 - 4) := by
  decide

/-- Every byte of a storage that lists none reads 0x00 (n25). -/
theorem mem_read_nil (k : Nat) : Mem.read [] k = 0x00 := rfl

/-- Settles O10: the fields by definition, PC by reading the vector, and every storage lists no byte. -/
theorem resetState : Obligations.ResetState := by
  refine ⟨rfl, reset_pc_eq_vector, fun k => ?_⟩
  exact ⟨mem_read_nil k, mem_read_nil k, mem_read_nil k, mem_read_nil k, mem_read_nil k, mem_read_nil k⟩

end Sys2Proof.Proofs
end

section
/-! The memory map (spec/20_memory.md): what an access of each bus can change, the addresses no peripheral answers, and
the folds of the PPU bus's own memory. -/

namespace Sys2Proof.Proofs

open Sys2Proof Sys2Proof.Machine Sys2Proof.Safety Sys2Proof.Claims Sys2Proof.Laws

/-- Only PPU register numbers 2, 4 and 7 have a read (R521). -/
theorem ppuPortRead_unhandled {a : Word} (h : a.toNat % 8 ∈ [0, 1, 3, 5, 6]) (s : State) : ppuPortRead a s = none := by
  unfold ppuPortRead
  split
  · rfl
  · split
    · next h2 => simp [h2] at h
    · next h4 => simp [h4] at h
    · next h7 => simp [h7] at h
    · rfl

/-- Of the PPU registers only STATUS and PPUDATA change the state when read (R524, R526, R530). -/
theorem ppuPortRead_state {a : Word} {s : State} {r : Byte × State} (h2 : a.toNat % 8 ≠ 2) (h7 : a.toNat % 8 ≠ 7)
    (h : ppuPortRead a s = some r) : r.2 = s := by
  unfold ppuPortRead at h
  split at h
  · cases h
  · split at h
    · contradiction
    · cases h; rfl
    · contradiction
    · cases h

theorem isHostcallPort_of_ne {a : Word} (h : a ≠ hostcallPort) : isHostcallPort a = false := by
  simp [isHostcallPort, h]

/-- The APU answers reads of 0x4010 to 0x4013 and of 0x4015 only (R601). -/
theorem rd_apu_unhandled {a : Word} (h1 : 0x4000 ≤ a.toNat) (h2 : a.toNat < 0x4010 ∨ a.toNat = 0x4014) (s : State) :
    rd a s = (busDefault, s) := by
  rw [rd_apu h1 (by omega), apuPortRead_none (by omega) (by omega), Option.getD_none]

/-- Settles O16: no peripheral answers, region by region. -/
theorem unmappedAddresses : Obligations.UnmappedAddresses := by
  intro a v s
  refine ⟨fun h1 h2 hreg => ?_, fun h1 h2 => ?_, fun h => ?_, fun h => ?_, fun h1 h2 hne => ?_⟩
  · rw [rd_ppu h1 h2, ppuPortRead_unhandled hreg, Option.getD_none]
  · exact rd_apu_unhandled h1 (by omega) s
  · exact rd_apu_unhandled (by omega) (.inr h) s
  · exact rd_unmapped (by omega) (by omega) (not_hostcall (by omega)) s
  · have hport := isHostcallPort_of_ne hne
    exact ⟨rd_unmapped (by omega) h2 hport s, wr_unmapped h1 h2 hport v s⟩

/-- A read outside the ports that have a side effect changes nothing (R111, R602). -/
theorem rd_state {a : Word} (h2 : ¬ ppuPort 2 a) (h7 : ¬ ppuPort 7 a) (hctrl : a ≠ ctrlPort)
    (hapu : ¬ (0x4010 ≤ a.toNat ∧ a.toNat ≤ 0x4013)) (hstatus : a ≠ 0x4015) (s : State) : (rd a s).2 = s := by
  rcases bus_regions a with h | ⟨hlo, hhi⟩ | ⟨hlo, hhi⟩ | rfl | h | ⟨hlo, hhi, hport⟩ | h
  · rw [rd_ram h]
  · rw [rd_ppu hlo hhi]
    cases hr : ppuPortRead a s with
    | none => rfl
    | some r => exact ppuPortRead_state (fun e => h2 ⟨hlo, hhi, e⟩) (fun e => h7 ⟨hlo, hhi, e⟩) hr
  · have hne : a.toNat ≠ 0x4015 := fun e => hstatus (BitVec.eq_of_toNat_eq e)
    rw [rd_apu_unhandled hlo (by omega)]
  · exact absurd rfl hctrl
  · rw [rd_host h]
  · rw [rd_unmapped hlo hhi hport]
  · rw [rd_cart h]

/-- Settles O20: no read touches the CPU or a byte, and only the listed ports have a side effect. -/
theorem readsKeepMemoryAndCpu : Obligations.ReadsKeepMemoryAndCpu := fun a s =>
  ⟨rd_keeps a s, readKeeps_bytes (rd_keeps a s), fun h2 h7 hctrl hapu hstatus => rd_state h2 h7 hctrl hapu hstatus s⟩

/-- Settles O21: the frame of a write, and the halt counter that the sprite DMA alone sets. -/
theorem writesKeepOtherBytes : Obligations.WritesKeepOtherBytes := fun a v s =>
  ⟨wr_storeKeeps a v s, wr_cpu_halt a v s, fun hdma => wr_cpu hdma v s⟩

theorem mirrorBits_toNat (m : Mapper) : (mirrorBits m).toNat = m.ctrl.toNat % 4 := by
  simp [mirrorBits]

/-- The logical nametable of a PPU-bus address: its bits 11 and 10 (R104). -/
theorem logicalTable_toNat (a : PpuAddr) : (a.extractLsb' 10 2).toNat = a.toNat / 1024 % 4 := by
  simp [Nat.shiftRight_eq_div_pow]

/-- Bit `k` as the number of a nametable. -/
theorem ite_getLsbD {w : Nat} (t : BitVec w) (k : Nat) : (if t.getLsbD k then 1 else 0) = t.toNat / 2 ^ k % 2 := by
  rw [← Nat.toNat_testBit]
  cases h : t.getLsbD k <;> simp_all [BitVec.getLsbD]

/-- The four arrangements: one table, the other, by the logical table's low bit, by its high bit (R104). -/
theorem ntSelect_eq (m t : BitVec 2) :
    ntSelect m t =
      if m.toNat = 0 then 0 else if m.toNat = 1 then 1 else if m.toNat = 2 then t.toNat % 2 else t.toNat / 2 % 2 := by
  unfold ntSelect
  split
  · next h => simp [h]
  · next h => simp [h]
  · next h => simpa [h] using ite_getLsbD t 0
  · next h0 h1 h2 =>
    rw [if_neg h0, if_neg h1, if_neg h2]
    exact ite_getLsbD t 1

/-- The table's number and the low ten bits, in arithmetic (R103, R104). -/
theorem ntIndex_eq (m : Mapper) (a : PpuAddr) :
    ntIndex m a =
      (if m.ctrl.toNat % 4 = 0 then 0
        else if m.ctrl.toNat % 4 = 1 then 1
        else if m.ctrl.toNat % 4 = 2 then a.toNat / 1024 % 2
        else a.toNat / 2048 % 2) * 1024 + a.toNat % 1024 := by
  have hlow : a.toNat / 1024 % 4 % 2 = a.toNat / 1024 % 2 := by omega
  have hhigh : a.toNat / 1024 % 4 / 2 % 2 = a.toNat / 2048 % 2 := by omega
  rw [ntIndex, ntSelect_eq, mirrorBits_toNat, logicalTable_toNat, hlow, hhigh, Nat.mul_comm]

/-- `PALETTE_ALIAS` is on (R105; n29). -/
theorem palIndex_eq (a : PpuAddr) :
    palIndex a = if a.toNat % 32 ∈ [16, 20, 24, 28] then a.toNat % 32 - 16 else a.toNat % 32 := by
  simp [palIndex, paletteAlias, or_assoc]

/-- An aliased entry folds below 16; another is none of the four (R105). -/
theorem palIndex_not_aliased (a : PpuAddr) : palIndex a ∉ [16, 20, 24, 28] := by
  rw [palIndex_eq]
  split
  · next h =>
    have hlt : a.toNat % 32 - 16 < 16 := by omega
    simp only [List.mem_cons, List.not_mem_nil, or_false]
    omega
  · next h => exact h

/-- Settles O29: both folds in arithmetic, and the palette fold's range. -/
theorem nametableAndPaletteFolds : Obligations.NametableAndPaletteFolds :=
  ⟨fun m a _ _ => ntIndex_eq m a, fun a => ⟨palIndex_eq a, palIndex_not_aliased a⟩⟩

end Sys2Proof.Proofs
end

section
/-! The encoding (spec/30_encoding.md): which bytes are the code of which instruction, that the decoder and the encoder
agree on it in both directions, and the undocumented opcode bytes. -/

namespace Sys2Proof.Proofs

open Sys2Proof Sys2Proof.Machine Sys2Proof.Safety Sys2Proof.Claims Sys2Proof.Laws

/-- The codes of an instruction by the opcode map, one constructor per format F1, F2, F3 (R141). -/
inductive CodeOf : Instr → List Byte → Prop
  | alone {op : Byte} {i : Instr} (hop : opcodeShape op = some (.alone i)) : CodeOf i [op]
  | withByte {op : Byte} {mk : Byte → Instr} (hop : opcodeShape op = some (.withByte mk)) (b : Byte) :
      CodeOf (mk b) [op, b]
  | withWord {op : Byte} {mk : Word → Instr} (hop : opcodeShape op = some (.withWord mk)) (w : Word) :
      CodeOf (mk w) [op, lo w, hi w]

/-- The encoder writes a code that the opcode map gives the instruction; its length selects the format. -/
theorem codeOf_encode (i : Instr) : CodeOf i (encode i) := by
  cases i <;> constructor <;> rfl

theorem decode_codeOf {i : Instr} {code : List Byte} (h : CodeOf i code) (rest : List Byte) :
    decode (code ++ rest) = some (i, rest) := by
  cases h with
  | alone hop => simp [decode, hop]
  | withByte hop b => simp [decode, hop]
  | withWord hop w => simp [decode, hop]

/-- Settles O1: the decoder reads back every code of the opcode map, and the encoder writes one. -/
theorem encodeThenDecode : Obligations.EncodeThenDecode := fun i rest => decode_codeOf (codeOf_encode i) rest

/-- What the decoder reads is a code of the opcode map, and it drops no byte. -/
theorem decode_cases {code : List Byte} {i : Instr} {rest : List Byte} (h : decode code = some (i, rest)) :
    ∃ c, CodeOf i c ∧ code = c ++ rest := by
  unfold decode at h
  split at h
  · cases h
  next op tail =>
  split at h
  · cases h
  · next hop => cases h; exact ⟨_, .alone hop, rfl⟩
  · next hop =>
    split at h
    · cases h; exact ⟨_, .withByte hop _, rfl⟩
    · cases h
  · next hop =>
    split at h
    · next b1 b2 _ => cases h; exact ⟨_, .withWord hop _, by simp⟩
    · cases h

/-- The encoder writes an opcode's instructions as the opcode byte and the operand's bytes, low byte first (R141). -/
def EncodesAs (op : Byte) : OpcodeShape → Prop
  | .alone i => encode i = [op]
  | .withByte mk => ∀ b, encode (mk b) = [op, b]
  | .withWord mk => ∀ w, encode (mk w) = [op, lo w, hi w]

theorem eq_ofNat_of_toNat {op : Byte} {n : Nat} (h : op.toNat = n) : op = BitVec.ofNat 8 n := by
  rw [← h, BitVec.ofNat_toNat, BitVec.setWidth_eq]

/-- The encoder inverts the opcode map, row by row (R170). -/
theorem encodesAs_opcodeShape {op : Byte} {shape : OpcodeShape} (h : opcodeShape op = some shape) :
    EncodesAs op shape := by
  unfold opcodeShape at h
  split at h <;> cases h
  all_goals
    next hop =>
    rw [eq_ofNat_of_toNat hop]
    simp [EncodesAs, encode]

theorem encode_codeOf {i : Instr} {code : List Byte} (h : CodeOf i code) : encode i = code := by
  cases h with
  | alone hop => exact encodesAs_opcodeShape hop
  | withByte hop b => exact encodesAs_opcodeShape hop b
  | withWord hop w => exact encodesAs_opcodeShape hop w

/-- Settles O2: what was read is a code of the instruction, and the encoder writes that code. -/
theorem decodedCodeIsTheEncoding : Obligations.DecodedCodeIsTheEncoding := by
  intro code i rest h
  obtain ⟨c, hc, rfl⟩ := decode_cases h
  rw [encode_codeOf hc]

/-- The encoder starts every code with a documented byte: its codes are well-formed (R170, R177). -/
theorem documented_of_encodesAs {op : Byte} {shape : OpcodeShape} (h : EncodesAs op shape) :
    documentedOpcode op = true := by
  have hcode : ∃ i operand, encode i = op :: operand := by
    cases shape with
    | alone i => exact ⟨i, [], h⟩
    | withByte mk => exact ⟨mk 0, _, h 0⟩
    | withWord mk => exact ⟨mk 0, _, h 0⟩
  obtain ⟨i, operand, henc⟩ := hcode
  have hwf := (coding_all i).1
  rw [henc, wellFormedCode, Bool.and_eq_true] at hwf
  exact hwf.1

/-- An undocumented byte has no row in the opcode map (R176, R177). -/
theorem opcodeShape_undocumented {op : Byte} (h : op ∈ undocumentedOpcodes) : opcodeShape op = none := by
  cases hop : opcodeShape op with
  | none => rfl
  | some shape =>
    have hdoc := documented_of_encodesAs (encodesAs_opcodeShape hop)
    simp [documentedOpcode, h] at hdoc

/-- Every other byte has a row, read off the 256 bytes one by one (R170, R177). -/
theorem undocumented_of_isNone : ∀ op : Byte, (opcodeShape op).isNone = true → op ∈ undocumentedOpcodes := by decide

/-- The opcode map leaves out exactly the undocumented bytes (R177). -/
theorem opcodeShape_eq_none_iff {op : Byte} : opcodeShape op = none ↔ op ∈ undocumentedOpcodes :=
  ⟨fun h => undocumented_of_isNone op (Option.isNone_iff_eq_none.mpr h), opcodeShape_undocumented⟩

theorem decode_none {op : Byte} (h : opcodeShape op = none) (rest : List Byte) : decode (op :: rest) = none := by
  simp [decode, h]

/-- No format has more than two operand bytes (R140, R141). -/
theorem decode_isSome {op : Byte} (h : opcodeShape op ≠ none) (b1 b2 : Byte) : (decode [op, b1, b2]).isSome = true := by
  obtain ⟨shape, hop⟩ := Option.ne_none_iff_exists'.mp h
  cases shape with
  | alone i => simp [decode, hop]
  | withByte mk => simp [decode, hop]
  | withWord mk => simp [decode, hop]

/-- A byte without a row is refused, whatever it is read from (R176; n17). -/
theorem executeOne_refused {s : State} (h : opcodeShape (rd s.cpu.pc s).1 = none) :
    executeOne s = .refused (.illegalOpcode (rd s.cpu.pc s).1) := by
  simp [executeOne, fetchInstr, h]

/-- Settles O4: the undocumented bytes are those without a row of the opcode map. -/
theorem undocumentedOpcodesRefused : Obligations.UndocumentedOpcodesRefused :=
  ⟨rfl, fun _ rest h => decode_none (opcodeShape_eq_none_iff.mpr h) rest,
    fun _ b1 b2 h => decode_isSome (fun hnone => h (opcodeShape_eq_none_iff.mp hnone)) b1 b2,
    fun _ h => executeOne_refused (opcodeShape_eq_none_iff.mpr h)⟩

/-- Settles O3: the bytes written out are those of the encoder, whose code the decoder reads back. -/
theorem opcodeMapWords : Obligations.OpcodeMapWords :=
  ⟨encodeThenDecode (.ldaImm 0x00) [], encodeThenDecode (.staAbsx 0x0200) [], encodeThenDecode (.adcZp 0x10) [],
    encodeThenDecode (.bitAbs 0x2002) [], encodeThenDecode .lsrAcc [], encodeThenDecode (.jmpInd 0x12FF) [],
    encodeThenDecode (.bne 0xFB) [], encodeThenDecode .pha []⟩

end Sys2Proof.Proofs
end

section
/-! The addressing modes (spec/30_encoding.md R150 to R157): the effective address of each, in arithmetic, and when an
indexed one leaves its base's page. -/

namespace Sys2Proof.Proofs

open Sys2Proof Sys2Proof.Machine Sys2Proof.Safety Sys2Proof.Claims Sys2Proof.Laws

@[simp] theorem zeroPage_toNat (b : Byte) : (zeroPage b).toNat = b.toNat := by
  have := b.isLt
  rw [zeroPage, BitVec.toNat_setWidth, Nat.mod_eq_of_lt (by omega)]

/-- A read of page 0: one byte of work RAM, no side effect (R430). -/
theorem rd_zeroPage (b : Byte) (s : State) : rd (zeroPage b) s = (Mem.read s.ram b.toNat, s) := by
  have hb := b.isLt
  have hin : (zeroPage b).toNat ≤ 0x1FFF := by rw [zeroPage_toNat]; omega
  have hindex : ramIndex (zeroPage b) = b.toNat := by rw [ramIndex, zeroPage_toNat]; omega
  rw [rd_ram hin, hindex]

/-- The pointer increment wraps inside page 0 (R156, R157). -/
theorem rdPair_zeroPage (p : Byte) (s : State) :
    rdPair (zeroPage p) (zeroPage (p + 1)) s = (zeroPagePointer s p, s) := by
  have hnext : (p + 1).toNat = (p.toNat + 1) % 256 := BitVec.toNat_add p 1
  simp only [rdPair, rd_zeroPage, hnext, zeroPagePointer, pair]

theorem effAddr_indx (b : Byte) (s : State) :
    effAddr (.indx b) s = { addr := zeroPagePointer s (b + s.cpu.x), cross := false, st := s } := by
  simp only [effAddr, rdPair_zeroPage]

theorem effAddr_indy (b : Byte) (s : State) :
    effAddr (.indy b) s = indexed (zeroPagePointer s b) s.cpu.y s := by
  simp only [effAddr, rdPair_zeroPage]

theorem indexed_toNat (base : Word) (index : Byte) (s : State) :
    (indexed base index s).addr.toNat = (base.toNat + index.toNat) % 65536 := by
  have := index.isLt
  rw [indexed, BitVec.toNat_add, BitVec.toNat_setWidth, Nat.mod_eq_of_lt (a := index.toNat) (by omega)]

/-- Pages are numbered by the high byte (R154). -/
theorem pageCross_iff (a b : Word) : pageCross a b = true ↔ a.toNat / 256 ≠ b.toNat / 256 := by
  rw [pageCross, bne_iff_ne, ne_eq, ← BitVec.toNat_inj, hi_toNat, hi_toNat]

theorem indexed_cross (base : Word) (index : Byte) (s : State) :
    (indexed base index s).cross = true ↔ (indexed base index s).addr.toNat / 256 ≠ base.toNat / 256 :=
  pageCross_iff _ _

/-- Pointers lie in work RAM, so no mode has a side effect. -/
theorem effAddr_state (m : Mode) (s : State) : (effAddr m s).st = s := by
  cases m with
  | indx b => rw [effAddr_indx]
  | indy b => rw [effAddr_indy]; rfl
  | zp | zpx | zpy | abs | absx | absy => rfl

/-- Only the three modes that index a 16-bit base can cross a page. -/
theorem effAddr_not_cross {b : Byte} {w : Word} {m : Mode} (s : State)
    (h : m = .zp b ∨ m = .zpx b ∨ m = .zpy b ∨ m = .abs w ∨ m = .indx b) : (effAddr m s).cross = false := by
  rcases h with rfl | rfl | rfl | rfl | rfl <;> rfl

theorem zeroPage_add_toNat (b index : Byte) : (zeroPage (b + index)).toNat = (b.toNat + index.toNat) % 256 := by
  rw [zeroPage_toNat, BitVec.toNat_add]

theorem ofNat_add_toNat (b index : Byte) : BitVec.ofNat 8 (b.toNat + index.toNat) = b + index :=
  BitVec.eq_of_toNat_eq (by rw [BitVec.toNat_ofNat, BitVec.toNat_add])

/-- Settles O56, mode by mode. -/
theorem effectiveAddresses : Obligations.EffectiveAddresses := by
  intro b w s
  rw [effAddr_indx, effAddr_indy, ofNat_add_toNat]
  exact ⟨zeroPage_toNat b, zeroPage_add_toNat b _, zeroPage_add_toNat b _, rfl, indexed_toNat w _ s, indexed_toNat w _ s,
    rfl, indexed_toNat _ _ s, fun m => effAddr_not_cross s, indexed_cross w _ s, indexed_cross w _ s, indexed_cross _ _ s,
    fun m => effAddr_state m s⟩

end Sys2Proof.Proofs
end

section
/-! The instruction shapes (spec/30_encoding.md R147, R149, R161): what every instruction of a shape does, from its
code, its meaning and its ticks. -/

namespace Sys2Proof.Proofs

open Sys2Proof Sys2Proof.Machine Sys2Proof.Safety Sys2Proof.Claims Sys2Proof.Laws

/-- The two spellings of `SetNZ` (R7). -/
theorem setNZ_eq_nz (v : Byte) (p : Status) : setNZ v p = nz v p := by
  simp [setNZ, nz, BitVec.msb_eq_getLsbD_last, beq_eq_decide]

/-- The length of an instruction is its opcode byte and its operand bytes (R141). -/
theorem modeLength_eq (m : Mode) : modeLength m = 1 + (modeBytes m).length := by
  cases m <;> rfl

theorem skip_cpu_eq_after (m : Mode) (s : State) :
    (skip (modeLength m) s).cpu = { s.cpu with pc := after m s.cpu } := by
  rw [skip_cpu, modeLength_eq, after]

/-- `g` on states is `f` on the CPU's registers, changes nothing else, and neither reads nor writes `PC`. -/
def ActsOnRegisters (g : State → State) (f : Cpu → Cpu) : Prop :=
  ∀ (s : State) (c : Cpu) (pc : Word), s.cpu = { c with pc := pc } → g s = { s with cpu := { f c with pc := pc } }

/-- A row of an encoding list is an instruction of the given shape: its code, its meaning, and its ticks without and
with a crossed page. -/
structure RowIs (shape : Instr → Mode → State → Host.Outcome State Fault Refusal) (m : Mode) (r : Row) : Prop where
  code : encode r.instr = r.op :: modeBytes m
  meaning : exec r.instr = shape r.instr m
  ticks : cpuCycles r.instr false false = r.ticks
  crossTicks : cpuCycles r.instr true false = r.ticks + (if r.plus then 1 else 0)

theorem RowIs.cycles {shape : Instr → Mode → State → Host.Outcome State Fault Refusal} {m : Mode} {r : Row}
    (h : RowIs shape m r) (cross : Bool) :
    cpuCycles r.instr cross false = r.ticks + (if r.plus && cross then 1 else 0) := by
  cases cross with
  | false => simp [h.ticks]
  | true => simp [h.crossTicks]

/-- A row without a tick for a crossed page, as of every instruction that writes (R161). -/
structure FlatRowIs (shape : Instr → Mode → State → Host.Outcome State Fault Refusal) (m : Mode) (r : Row) : Prop
    extends RowIs shape m r where
  flat : r.plus = false

theorem FlatRowIs.cycles_eq {shape : Instr → Mode → State → Host.Outcome State Fault Refusal} {m : Mode} {r : Row}
    (h : FlatRowIs shape m r) (cross : Bool) : cpuCycles r.instr cross false = r.ticks := by
  simp [h.cycles, h.flat]

/-- Moving `PC` first touches no byte. -/
theorem bytesKept_of_skip {n : Nat} {s t : State} (h : BytesKept (skip n s) t) : BytesKept s t :=
  ⟨h.ram, h.prg, h.chr, h.nt, h.oam, h.pal⟩

/-- Updating the CPU after a write, and moving `PC` before it, touches no byte. -/
theorem storeKeeps_of_skip {n : Nat} {a : Word} {s t : State} (h : StoreKeeps a (skip n s) t) (c : Cpu) :
    StoreKeeps a s { t with cpu := c } :=
  ⟨h.ram, h.oam, h.nt, h.pal, h.chr, h.prg⟩

/-- A *read* instruction acts on the registers that its operand's reads left as they were (R161). -/
theorem readsAs_of_rows {row : Mode → Option Row} {f : Byte → Cpu → Cpu} {g : Byte → State → State}
    (hrow : ∀ {m r}, row m = some r → RowIs (fun i m => readInstr i m g) m r) (hg : ∀ v, ActsOnRegisters (g v) (f v)) :
    ReadsAs row f := by
  intro m r s hr o
  have h := hrow hr
  have hcpu : o.st.cpu = { s.cpu with pc := after m s.cpu } := (readOperand_cpu m _).trans (skip_cpu_eq_after m s)
  refine ⟨h.code, ?_, bytesKept_of_skip (readKeeps_bytes (readOperand_keeps m _))⟩
  calc exec r.instr s
      = .next (retire (cpuCycles r.instr o.cross false) (g o.value o.st)) := congrFun h.meaning s
    _ = _ := by rw [h.cycles, hg o.value o.st s.cpu _ hcpu]; rfl

/-- A one-byte instruction of 2 ticks (R147). -/
theorem registersAs_of_implied {op : Byte} {i : Instr} {f : Cpu → Cpu} {g : State → State} (hcode : encode i = [op])
    (hexec : exec i = impliedInstr i g) (hticks : cpuCycles i false false = 2) (hg : ActsOnRegisters g f) :
    RegistersAs op i f := by
  refine fun s => ⟨hcode, ?_⟩
  calc exec i s
      = .next (retire (cpuCycles i false false) (g (skip 1 s))) := congrFun hexec s
    _ = _ := by rw [hticks, hg (skip 1 s) s.cpu _ rfl]; rfl

/-- An instruction with an immediate operand, of 2 ticks (R149). -/
theorem immediateAs_of_immediate {op : Byte} {mk : Byte → Instr} {f : Byte → Cpu → Cpu} {g : Byte → State → State}
    (hcode : ∀ b, encode (mk b) = [op, b]) (hexec : ∀ b, exec (mk b) = immediateInstr (mk b) b g)
    (hticks : ∀ b, cpuCycles (mk b) false false = 2) (hg : ∀ v, ActsOnRegisters (g v) (f v)) :
    ImmediateAs op mk f := by
  refine fun b s => ⟨hcode b, ?_⟩
  calc exec (mk b) s
      = .next (retire (cpuCycles (mk b) false false) (g b (skip 2 s))) := congrFun (hexec b) s
    _ = _ := by rw [hticks, hg b (skip 2 s) s.cpu _ rfl]; rfl

/-- A byte written to work RAM reads back at the index its address folds to (R430, R431). -/
theorem read_wr_ram {a : Word} (ha : a.toNat ≤ 0x1FFF) (v : Byte) {s : State} (hs : Mem.wf s.ram = true) :
    Mem.read (wr a v s).ram (a.toNat % 0x0800) = v := by
  rw [wr_ram ha]
  exact mem_read_write_eq hs _ v

/-- A *write* instruction is one bus write of a register, which changes of the CPU at most the halt counter (R161, R110,
R406). -/
theorem writesAs_of_rows {row : Mode → Option Row} {v : Cpu → Byte}
    (hrow : ∀ {m r}, row m = some r → FlatRowIs (fun i m => writeInstr i m v) m r)
    (hv : ∀ (c : Cpu) (pc : Word), v { c with pc := pc } = v c) : WritesAs row v := by
  intro m r s hr e t u
  have h := hrow hr
  have hst : e.st = skip (modeLength m) s := effAddr_state m _
  have hcpu : e.st.cpu = { s.cpu with pc := after m s.cpu } := by rw [hst, skip_cpu_eq_after]
  have hval : v e.st.cpu = v s.cpu := by rw [hcpu, hv]
  have htcpu : t.cpu = { s.cpu with pc := after m s.cpu, halt := t.cpu.halt } := by rw [wr_cpu_halt, hcpu]
  refine ⟨h.code, ?_, fun hdma => ?_, ?_, fun hram hwf => ?_⟩
  · calc exec r.instr s
        = .next (retire (cpuCycles r.instr e.cross false) (wr e.addr (v e.st.cpu) e.st)) := congrFun h.meaning s
      _ = .next { t with cpu := { t.cpu with pending := r.ticks - 1 } } := by rw [h.cycles_eq, hval]; rfl
      _ = .next u := by rw [htcpu]
  · calc u.cpu.halt
        = t.cpu.halt := rfl
      _ = e.st.cpu.halt := congrArg Cpu.halt (wr_cpu hdma _ _)
      _ = s.cpu.halt := by rw [hcpu]
  · have hkeeps : StoreKeeps e.addr e.st t := wr_storeKeeps _ _ _
    rw [hst] at hkeeps
    exact storeKeeps_of_skip hkeeps _
  · exact read_wr_ram hram _ (by rw [hst]; exact hwf)

end Sys2Proof.Proofs
end

section
/-! Loads, stores and register transfers (spec/40_cpu_load_store_transfer.md R200 to R211). -/

namespace Sys2Proof.Proofs

open Sys2Proof Sys2Proof.Machine Sys2Proof.Safety Sys2Proof.Claims Sys2Proof.Laws

theorem loadA_acts (v : Byte) : ActsOnRegisters (loadA v) fun c => { c with a := v, p := nz v c.p } := by
  intro s c pc h
  simp [loadA, setA, setP, setNZ_eq_nz, h]

theorem loadX_acts (v : Byte) : ActsOnRegisters (loadX v) fun c => { c with x := v, p := nz v c.p } := by
  intro s c pc h
  simp [loadX, setX, setP, setNZ_eq_nz, h]

theorem loadY_acts (v : Byte) : ActsOnRegisters (loadY v) fun c => { c with y := v, p := nz v c.p } := by
  intro s c pc h
  simp [loadY, setY, setP, setNZ_eq_nz, h]

theorem ldaRow_reads {m : Mode} {r : Row} (h : ldaRow m = some r) : RowIs (fun i m => readInstr i m loadA) m r := by
  cases m <;> cases h <;> exact ⟨rfl, rfl, rfl, rfl⟩

theorem ldxRow_reads {m : Mode} {r : Row} (h : ldxRow m = some r) : RowIs (fun i m => readInstr i m loadX) m r := by
  cases m <;> cases h <;> exact ⟨rfl, rfl, rfl, rfl⟩

theorem ldyRow_reads {m : Mode} {r : Row} (h : ldyRow m = some r) : RowIs (fun i m => readInstr i m loadY) m r := by
  cases m <;> cases h <;> exact ⟨rfl, rfl, rfl, rfl⟩

/-- Settles O41: each row is a read instruction, and each load acts on the registers alone. -/
theorem loadInstructions : Obligations.LoadInstructions :=
  ⟨readsAs_of_rows ldaRow_reads loadA_acts,
    immediateAs_of_immediate (fun _ => rfl) (fun _ => rfl) (fun _ => rfl) loadA_acts,
    readsAs_of_rows ldxRow_reads loadX_acts,
    immediateAs_of_immediate (fun _ => rfl) (fun _ => rfl) (fun _ => rfl) loadX_acts,
    readsAs_of_rows ldyRow_reads loadY_acts,
    immediateAs_of_immediate (fun _ => rfl) (fun _ => rfl) (fun _ => rfl) loadY_acts⟩

theorem staRow_writes {m : Mode} {r : Row} (h : staRow m = some r) :
    FlatRowIs (fun i m => writeInstr i m fun c => c.a) m r := by
  cases m <;> cases h <;> exact ⟨⟨rfl, rfl, rfl, rfl⟩, rfl⟩

theorem stxRow_writes {m : Mode} {r : Row} (h : stxRow m = some r) :
    FlatRowIs (fun i m => writeInstr i m fun c => c.x) m r := by
  cases m <;> cases h <;> exact ⟨⟨rfl, rfl, rfl, rfl⟩, rfl⟩

theorem styRow_writes {m : Mode} {r : Row} (h : styRow m = some r) :
    FlatRowIs (fun i m => writeInstr i m fun c => c.y) m r := by
  cases m <;> cases h <;> exact ⟨⟨rfl, rfl, rfl, rfl⟩, rfl⟩

/-- Settles O42: each row is a write instruction of a register other than `PC`. -/
theorem storeInstructions : Obligations.StoreInstructions :=
  ⟨writesAs_of_rows staRow_writes fun _ _ => rfl, writesAs_of_rows stxRow_writes fun _ _ => rfl,
    writesAs_of_rows styRow_writes fun _ _ => rfl⟩

/-- A load of a register other than `PC`. -/
theorem acts_from_register {f : Byte → Cpu → Cpu} {g : Byte → State → State} (hg : ∀ v, ActsOnRegisters (g v) (f v))
    {src : Cpu → Byte} (hsrc : ∀ (c : Cpu) (pc : Word), src { c with pc := pc } = src c) :
    ActsOnRegisters (fun s => g (src s.cpu) s) fun c => f (src c) c := by
  intro s c pc h
  have hval : src s.cpu = src c := by rw [h, hsrc]
  calc g (src s.cpu) s
      = g (src c) s := by rw [hval]
    _ = { s with cpu := { f (src c) c with pc := pc } } := hg (src c) s c pc h

theorem transferXS_acts : ActsOnRegisters transferXS fun c => { c with s := c.x } := by
  intro s c pc h
  rw [transferXS, setS, h]

/-- Settles O43: five transfers load the destination with the source; TXS alone sets no flag. -/
theorem transferInstructions : Obligations.TransferInstructions :=
  ⟨registersAs_of_implied rfl rfl rfl (acts_from_register loadX_acts (src := fun c => c.a) fun _ _ => rfl),
    registersAs_of_implied rfl rfl rfl (acts_from_register loadY_acts (src := fun c => c.a) fun _ _ => rfl),
    registersAs_of_implied rfl rfl rfl (acts_from_register loadA_acts (src := fun c => c.x) fun _ _ => rfl),
    registersAs_of_implied rfl rfl rfl (acts_from_register loadA_acts (src := fun c => c.y) fun _ _ => rfl),
    registersAs_of_implied rfl rfl rfl (acts_from_register loadX_acts (src := fun c => c.s) fun _ _ => rfl),
    registersAs_of_implied rfl rfl rfl transferXS_acts⟩

end Sys2Proof.Proofs
end

section
/-! Arithmetic, logic, compare and bit test (spec/41_cpu_arithmetic_logic.md R241 to R250). -/

namespace Sys2Proof.Proofs

open Sys2Proof Sys2Proof.Machine Sys2Proof.Safety Sys2Proof.Claims Sys2Proof.Laws

/-- A result for the accumulator, computed from registers other than `PC`. -/
theorem putA_acts {r : Cpu → Byte × Status} {f : Cpu → Cpu}
    (hr : ∀ (c : Cpu) (pc : Word), r { c with pc := pc } = r c)
    (hf : ∀ c : Cpu, { c with a := (r c).1, p := (r c).2 } = f c) :
    ActsOnRegisters (fun s => putA (r s.cpu) s) f := by
  intro s c pc h
  simp [putA, setA, setP, h, hr, ← hf]

/-- Flags computed from registers other than `PC`. -/
theorem setP_acts {p : Cpu → Status} {f : Cpu → Cpu} (hp : ∀ (c : Cpu) (pc : Word), p { c with pc := pc } = p c)
    (hf : ∀ c : Cpu, { c with p := p c } = f c) : ActsOnRegisters (fun s => setP (p s.cpu) s) f := by
  intro s c pc h
  simp [setP, h, hp, ← hf]

/-- Nine bits hold the sum of two bytes and a carry. -/
theorem carrySum_lt (a m : Byte) (c : Bool) : carrySum a m c < 512 := by
  have ha := a.isLt
  have hm := m.isLt
  unfold carrySum
  split <;> omega

/-- The nine-bit sum of R241. -/
theorem nineBitSum_eq (a m : Byte) (c : Bool) :
    a.setWidth 9 + m.setWidth 9 + BitVec.ofNat 9 (carryNat c) = BitVec.ofNat 9 (carrySum a m c) := by
  apply BitVec.eq_of_toNat_eq
  simp [carrySum, carryNat]

/-- Bit 8 of a nine-bit number is its carry out of a byte. -/
theorem ofNat_carry {n : Nat} (h : n < 512) : (BitVec.ofNat 9 n).getLsbD 8 = decide (256 ≤ n) := by
  have hmsb := BitVec.msb_eq_decide (BitVec.ofNat 9 n)
  rw [BitVec.msb_eq_getLsbD_last, BitVec.toNat_ofNat, Nat.mod_eq_of_lt h] at hmsb
  exact hmsb

/-- Both inputs have the sign the result lacks, exactly when the signed sum is out of range (R241). -/
theorem overflow_eq (a m : Byte) (c : Bool) :
    ((a ^^^ BitVec.ofNat 8 (carrySum a m c)) &&& (m ^^^ BitVec.ofNat 8 (carrySum a m c))).msb =
      decide (a.toInt + m.toInt + (if c then 1 else 0) < -128 ∨ 127 < a.toInt + m.toInt + (if c then 1 else 0)) := by
  have ha := a.isLt
  have hm := m.isLt
  rw [BitVec.msb_and, BitVec.msb_xor, BitVec.msb_xor, Bool.eq_iff_iff, decide_eq_true_iff, Bool.and_eq_true, bne_iff_ne,
    bne_iff_ne]
  simp only [BitVec.msb_eq_decide, BitVec.toInt_eq_toNat_cond, BitVec.toNat_ofNat, carrySum, ne_eq, decide_eq_decide]
  split_ifs <;> omega

/-- ADC in arithmetic: `CPU_DECIMAL` being false, the nine-bit sum whatever `D` holds (R241, R242; n11). -/
theorem adc_adds (m : Byte) (c : Cpu) :
    { c with a := (adc c.a m c.p).1, p := (adc c.a m c.p).2 } = adds m c := by
  have hbinary : adc c.a m c.p = adcBinary c.a m c.p := rfl
  have hlow (n : Nat) : (BitVec.ofNat 9 n).setWidth 8 = BitVec.ofNat 8 n := BitVec.setWidth_ofNat_of_le (by decide) n
  simp only [hbinary, adcBinary, adds, nineBitSum_eq, hlow, ofNat_carry (carrySum_lt _ _ _), overflow_eq, setNZ_eq_nz]

/-- The one's complement of a signed byte. -/
theorem not_toInt (m : Byte) : (~~~m).toInt = -1 - m.toInt := by
  have hm := m.isLt
  simp only [BitVec.toInt_eq_toNat_cond, BitVec.toNat_not]
  split <;> split <;> omega

/-- Adding the one's complement is subtracting, 256 too many (R243). -/
theorem carrySum_not (a m : Byte) (c : Bool) :
    (carrySum a (~~~m) c : Int) = (a.toNat : Int) - m.toNat - (if c then 0 else 1) + 256 := by
  have hm := m.isLt
  cases c <;> simp [carrySum] <;> omega

/-- ADC of the one's complement is SBC: the two sums differ by 256, the two signed sums by nothing (R243). -/
theorem adds_not (m : Byte) (c : Cpu) : adds (~~~m) c = subtracts m c := by
  have hsum := carrySum_not c.a m c.p.c
  have hresult : BitVec.ofNat 8 (carrySum c.a (~~~m) c.p.c) =
      BitVec.ofInt 8 ((c.a.toNat : Int) - m.toNat - (if c.p.c then 0 else 1)) := by
    apply BitVec.eq_of_toNat_eq
    rw [BitVec.toNat_ofNat, BitVec.toNat_ofInt]
    omega
  have hcarry : 256 ≤ carrySum c.a (~~~m) c.p.c ↔ 0 ≤ (c.a.toNat : Int) - m.toNat - (if c.p.c then 0 else 1) := by
    omega
  have hsigned : c.a.toInt + (~~~m).toInt + (if c.p.c then 1 else 0) =
      c.a.toInt - m.toInt - (if c.p.c then 0 else 1) := by
    rw [not_toInt]
    split <;> omega
  simp only [adds, subtracts, hresult, hcarry, hsigned]

/-- SBC in arithmetic (R243, R242; n11). -/
theorem sbc_subtracts (m : Byte) (c : Cpu) :
    { c with a := (sbc c.a m c.p).1, p := (sbc c.a m c.p).2 } = subtracts m c := by
  have hadc : sbc c.a m c.p = adc c.a (m ^^^ 0xFF) c.p := rfl
  have hnot : m ^^^ 0xFF = ~~~m := BitVec.xor_allOnes
  rw [hadc, hnot, adc_adds, adds_not]

theorem adcA_acts (m : Byte) : ActsOnRegisters (adcA m) (adds m) := putA_acts (fun _ _ => rfl) (adc_adds m)

theorem sbcA_acts (m : Byte) : ActsOnRegisters (sbcA m) (subtracts m) := putA_acts (fun _ _ => rfl) (sbc_subtracts m)

theorem adcRow_reads {m : Mode} {r : Row} (h : adcRow m = some r) : RowIs (fun i m => readInstr i m adcA) m r := by
  cases m <;> cases h <;> exact ⟨rfl, rfl, rfl, rfl⟩

theorem sbcRow_reads {m : Mode} {r : Row} (h : sbcRow m = some r) : RowIs (fun i m => readInstr i m sbcA) m r := by
  cases m <;> cases h <;> exact ⟨rfl, rfl, rfl, rfl⟩

/-- Settles O44: each row is a read instruction; ADC is the exact sum, and SBC is ADC of the one's complement. -/
theorem addAndSubtract : Obligations.AddAndSubtract :=
  ⟨readsAs_of_rows adcRow_reads adcA_acts,
    immediateAs_of_immediate (fun _ => rfl) (fun _ => rfl) (fun _ => rfl) adcA_acts,
    readsAs_of_rows sbcRow_reads sbcA_acts,
    immediateAs_of_immediate (fun _ => rfl) (fun _ => rfl) (fun _ => rfl) sbcA_acts⟩

theorem andRow_reads {m : Mode} {r : Row} (h : andRow m = some r) : RowIs (fun i m => readInstr i m andA) m r := by
  cases m <;> cases h <;> exact ⟨rfl, rfl, rfl, rfl⟩

theorem oraRow_reads {m : Mode} {r : Row} (h : oraRow m = some r) : RowIs (fun i m => readInstr i m oraA) m r := by
  cases m <;> cases h <;> exact ⟨rfl, rfl, rfl, rfl⟩

theorem eorRow_reads {m : Mode} {r : Row} (h : eorRow m = some r) : RowIs (fun i m => readInstr i m eorA) m r := by
  cases m <;> cases h <;> exact ⟨rfl, rfl, rfl, rfl⟩

/-- Any bytewise operation on `A` and the operand, its result going to `A` (R244 to R246). -/
theorem logic_acts (op : Byte → Byte → Byte) (m : Byte) :
    ActsOnRegisters (fun s => putA (op s.cpu.a m, setNZ (op s.cpu.a m) s.cpu.p) s) fun c => intoA (op c.a m) c :=
  putA_acts (r := fun c => (op c.a m, setNZ (op c.a m) c.p)) (fun _ _ => rfl) fun c => by rw [setNZ_eq_nz, intoA]

/-- Settles O45: each row is a read instruction, and the three operations differ in their bytewise function alone. -/
theorem logicInstructions : Obligations.LogicInstructions :=
  ⟨readsAs_of_rows andRow_reads (logic_acts (· &&& ·)),
    immediateAs_of_immediate (fun _ => rfl) (fun _ => rfl) (fun _ => rfl) (logic_acts (· &&& ·)),
    readsAs_of_rows oraRow_reads (logic_acts (· ||| ·)),
    immediateAs_of_immediate (fun _ => rfl) (fun _ => rfl) (fun _ => rfl) (logic_acts (· ||| ·)),
    readsAs_of_rows eorRow_reads (logic_acts (· ^^^ ·)),
    immediateAs_of_immediate (fun _ => rfl) (fun _ => rfl) (fun _ => rfl) (logic_acts (· ^^^ ·))⟩

theorem cmpRow_reads {m : Mode} {r : Row} (h : cmpRow m = some r) : RowIs (fun i m => readInstr i m compareA) m r := by
  cases m <;> cases h <;> exact ⟨rfl, rfl, rfl, rfl⟩

theorem cpxRow_reads {m : Mode} {r : Row} (h : cpxRow m = some r) : RowIs (fun i m => readInstr i m compareX) m r := by
  cases m <;> cases h <;> exact ⟨rfl, rfl, rfl, rfl⟩

theorem cpyRow_reads {m : Mode} {r : Row} (h : cpyRow m = some r) : RowIs (fun i m => readInstr i m compareY) m r := by
  cases m <;> cases h <;> exact ⟨rfl, rfl, rfl, rfl⟩

theorem bitRow_reads {m : Mode} {r : Row} (h : bitRow m = some r) : RowIs (fun i m => readInstr i m bitTest) m r := by
  cases m <;> cases h <;> exact ⟨rfl, rfl, rfl, rfl⟩

/-- The difference of two bytes modulo 256. -/
theorem sub_eq_ofInt (r m : Byte) : r - m = BitVec.ofInt 8 ((r.toNat : Int) - m.toNat) := by
  apply BitVec.eq_of_toNat_eq
  rw [BitVec.toNat_sub, BitVec.toNat_ofInt]
  omega

/-- The flags of a compare in arithmetic (R247 to R249). -/
theorem compareFlags_compares (r m : Byte) (c : Cpu) : { c with p := compareFlags r m c.p } = compares r m c := by
  simp only [compareFlags, compares, sub_eq_ofInt, BitVec.msb_eq_getLsbD_last, beq_eq_decide]

/-- A compare of any register but `PC` (R247 to R249). -/
theorem compare_acts {src : Cpu → Byte} (hsrc : ∀ (c : Cpu) (pc : Word), src { c with pc := pc } = src c) (m : Byte) :
    ActsOnRegisters (fun s => setP (compareFlags (src s.cpu) m s.cpu.p) s) fun c => compares (src c) m c :=
  setP_acts (p := fun c => compareFlags (src c) m c.p) (fun c pc => by rw [hsrc]) fun c =>
    compareFlags_compares (src c) m c

theorem compareA_acts (m : Byte) : ActsOnRegisters (compareA m) fun c => compares c.a m c :=
  compare_acts (src := fun c => c.a) (fun _ _ => rfl) m

theorem compareX_acts (m : Byte) : ActsOnRegisters (compareX m) fun c => compares c.x m c :=
  compare_acts (src := fun c => c.x) (fun _ _ => rfl) m

theorem compareY_acts (m : Byte) : ActsOnRegisters (compareY m) fun c => compares c.y m c :=
  compare_acts (src := fun c => c.y) (fun _ _ => rfl) m

theorem bitTest_acts (m : Byte) :
    ActsOnRegisters (bitTest m) fun c =>
      { c with p := { c.p with n := m.getLsbD 7, v := m.getLsbD 6, z := decide (c.a &&& m = 0) } } :=
  setP_acts (p := fun c => bitFlags c.a m c.p) (fun _ _ => rfl) fun c => by rw [bitFlags, beq_eq_decide]

/-- Settles O46: each row is a read instruction, and each operation computes flags alone. -/
theorem compareAndBitTest : Obligations.CompareAndBitTest :=
  ⟨readsAs_of_rows cmpRow_reads compareA_acts,
    immediateAs_of_immediate (fun _ => rfl) (fun _ => rfl) (fun _ => rfl) compareA_acts,
    readsAs_of_rows cpxRow_reads compareX_acts,
    immediateAs_of_immediate (fun _ => rfl) (fun _ => rfl) (fun _ => rfl) compareX_acts,
    readsAs_of_rows cpyRow_reads compareY_acts,
    immediateAs_of_immediate (fun _ => rfl) (fun _ => rfl) (fun _ => rfl) compareY_acts,
    readsAs_of_rows bitRow_reads bitTest_acts⟩

end Sys2Proof.Proofs
end

section
/-! Shifts, rotates, increments and decrements (spec/42_cpu_shift_incdec.md R280 to R289). -/

namespace Sys2Proof.Proofs

open Sys2Proof Sys2Proof.Machine Sys2Proof.Safety Sys2Proof.Claims Sys2Proof.Laws

/-- A read before a write widens no frame. -/
theorem storeKeeps_of_bytesKept {a : Word} {s t u : State} (h : BytesKept s t) (k : StoreKeeps a t u) :
    StoreKeeps a s u :=
  ⟨fun hport i hi => (k.ram hport i hi).trans (h.ram i), fun hdma h4 i => (k.oam hdma h4 i).trans (h.oam i),
    fun h7 i => (k.nt h7 i).trans (h.nt i), fun h7 i => (k.pal h7 i).trans (h.pal i),
    fun h7 i => (k.chr h7 i).trans (h.chr i), fun i => (k.prg i).trans (h.prg i)⟩

/-- A *read-modify-write* instruction is one bus read, which leaves the CPU and every byte alone, and one bus write at
the same address (R161, R110, R406). -/
theorem modifiesAs_of_rows {row : Mode → Option Row} {g : Byte → Status → Byte × Status}
    (hrow : ∀ {m r}, row m = some r → FlatRowIs (fun i m => modifyInstr i m g) m r) : ModifiesAs row g := by
  intro m r s hr e o x t u
  have h := hrow hr
  have hst : e.st = skip (modeLength m) s := effAddr_state m _
  have hcpu : o.2.cpu = { s.cpu with pc := after m s.cpu } := by rw [rd_cpu, hst, skip_cpu_eq_after]
  have hx : g o.1 o.2.cpu.p = x := by rw [hcpu]
  have htcpu : t.cpu = { s.cpu with pc := after m s.cpu, halt := t.cpu.halt } := by rw [wr_cpu_halt, hcpu]
  refine ⟨h.code, ?_, fun hdma => ?_, ?_, fun hram hwf => ?_⟩
  · calc exec r.instr s
        = .next (retire (cpuCycles r.instr e.cross false)
            (setP (g o.1 o.2.cpu.p).2 (wr e.addr (g o.1 o.2.cpu.p).1 o.2))) := congrFun h.meaning s
      _ = .next { t with cpu := { t.cpu with p := x.2, pending := r.ticks - 1 } } := by rw [h.cycles_eq, hx]; rfl
      _ = .next u := by rw [htcpu]
  · calc u.cpu.halt
        = t.cpu.halt := rfl
      _ = o.2.cpu.halt := congrArg Cpu.halt (wr_cpu hdma _ _)
      _ = s.cpu.halt := by rw [hcpu]
  · have hread : BytesKept e.st o.2 := readKeeps_bytes (rd_keeps _ _)
    have hkeeps : StoreKeeps e.addr e.st t := storeKeeps_of_bytesKept hread (wr_storeKeeps _ _ _)
    rw [hst] at hkeeps
    exact storeKeeps_of_skip hkeeps _
  · have ho : o = (Mem.read s.ram (e.addr.toNat % 0x0800), e.st) := (rd_ram hram _).trans (by rw [hst]; rfl)
    calc Mem.read u.ram (e.addr.toNat % 0x0800)
        = x.1 := read_wr_ram hram _ (by rw [ho, hst]; exact hwf)
      _ = (g (Mem.read s.ram (e.addr.toNat % 0x0800)) s.cpu.p).1 := by simp only [x, ho]

/-- The accumulator form, of 2 ticks: the result goes to `A` (R148). -/
theorem accumulatorAs_of_accumulator {op : Byte} {i : Instr} {g : Byte → Status → Byte × Status}
    (hcode : encode i = [op]) (hexec : exec i = accumulatorInstr i g) (hticks : cpuCycles i false false = 2) :
    AccumulatorAs op i g :=
  registersAs_of_implied (g := fun s => putA (g s.cpu.a s.cpu.p) s) hcode hexec hticks
    (putA_acts (r := fun c => g c.a c.p) (fun _ _ => rfl) fun _ => rfl)

theorem aslRow_modifies {m : Mode} {r : Row} (h : aslRow m = some r) :
    FlatRowIs (fun i m => modifyInstr i m aslOp) m r := by
  cases m <;> cases h <;> exact ⟨⟨rfl, rfl, rfl, rfl⟩, rfl⟩

theorem lsrRow_modifies {m : Mode} {r : Row} (h : lsrRow m = some r) :
    FlatRowIs (fun i m => modifyInstr i m lsrOp) m r := by
  cases m <;> cases h <;> exact ⟨⟨rfl, rfl, rfl, rfl⟩, rfl⟩

theorem rolRow_modifies {m : Mode} {r : Row} (h : rolRow m = some r) :
    FlatRowIs (fun i m => modifyInstr i m rolOp) m r := by
  cases m <;> cases h <;> exact ⟨⟨rfl, rfl, rfl, rfl⟩, rfl⟩

theorem rorRow_modifies {m : Mode} {r : Row} (h : rorRow m = some r) :
    FlatRowIs (fun i m => modifyInstr i m rorOp) m r := by
  cases m <;> cases h <;> exact ⟨⟨rfl, rfl, rfl, rfl⟩, rfl⟩

theorem shl_one_eq (m : Byte) : m <<< 1 = BitVec.ofNat 8 (m.toNat * 2) := by
  apply BitVec.eq_of_toNat_eq
  rw [BitVec.toNat_shiftLeft, BitVec.toNat_ofNat, Nat.shiftLeft_eq, pow_one]

theorem shr_one_eq (m : Byte) : m >>> 1 = BitVec.ofNat 8 (m.toNat / 2) := by
  have hm := m.isLt
  apply BitVec.eq_of_toNat_eq
  rw [BitVec.toNat_ushiftRight, BitVec.toNat_ofNat, Nat.shiftRight_one]
  omega

/-- The bit a left shift drops (R280, R282). -/
theorem bit_seven_eq (m : Byte) : m.getLsbD 7 = decide (128 ≤ m.toNat) := by
  rw [← BitVec.msb_eq_getLsbD_last, BitVec.msb_eq_decide]

/-- The bit a right shift drops (R281, R283). -/
theorem bit_zero_eq (m : Byte) : m.getLsbD 0 = decide (m.toNat % 2 = 1) := Nat.testBit_zero _

/-- Setting a bit that is clear is adding its weight. -/
theorem or_twoPow_eq {b : Byte} {k : Nat} (h : b.getLsbD k = false) : b ||| BitVec.twoPow 8 k = b + BitVec.twoPow 8 k :=
  (BitVec.add_eq_or_of_and_eq_zero _ _ (by rw [BitVec.and_twoPow, h]; rfl)).symm

/-- A left shift leaves bit 0 free for the carry (R282). -/
theorem rotatedLeft_eq (m : Byte) (c : Bool) :
    m <<< 1 ||| (if c then 0x01 else 0x00) = BitVec.ofNat 8 (m.toNat * 2 + (if c then 1 else 0)) := by
  cases c with
  | false => exact BitVec.or_zero.trans (shl_one_eq m)
  | true =>
    have hfree : (m <<< 1).getLsbD 0 = false := by simp
    calc m <<< 1 ||| 0x01
        = m <<< 1 + 0x01 := or_twoPow_eq hfree
      _ = BitVec.ofNat 8 (m.toNat * 2 + 1) := by rw [shl_one_eq]; exact (BitVec.ofNat_add _ _).symm

/-- A right shift leaves bit 7 free for the carry (R283). -/
theorem rotatedRight_eq (m : Byte) (c : Bool) :
    m >>> 1 ||| (if c then 0x80 else 0x00) = BitVec.ofNat 8 (m.toNat / 2 + (if c then 128 else 0)) := by
  cases c with
  | false => exact BitVec.or_zero.trans (shr_one_eq m)
  | true =>
    have hfree : (m >>> 1).getLsbD 7 = false := by simp
    calc m >>> 1 ||| 0x80
        = m >>> 1 + 0x80 := or_twoPow_eq hfree
      _ = BitVec.ofNat 8 (m.toNat / 2 + 128) := by rw [shr_one_eq]; exact (BitVec.ofNat_add _ _).symm

theorem aslOp_eq : aslOp = shiftLeft := by
  funext m p
  rw [aslOp, shiftLeft, shl_one_eq, bit_seven_eq, setNZ_eq_nz]

theorem lsrOp_eq : lsrOp = shiftRight := by
  funext m p
  rw [lsrOp, shiftRight, shr_one_eq, bit_zero_eq, setNZ_eq_nz]

theorem rolOp_eq : rolOp = rotateLeft := by
  funext m p
  rw [rolOp, rotateLeft, rotatedLeft_eq, bit_seven_eq, setNZ_eq_nz]

theorem rorOp_eq : rorOp = rotateRight := by
  funext m p
  rw [rorOp, rotateRight, rotatedRight_eq, bit_zero_eq, setNZ_eq_nz]

/-- Settles O47: each row is a read-modify-write instruction, and the four operations are those of the rules in
arithmetic. -/
theorem shiftsAndRotates : Obligations.ShiftsAndRotates := by
  rw [Obligations.ShiftsAndRotates, ← aslOp_eq, ← lsrOp_eq, ← rolOp_eq, ← rorOp_eq]
  exact ⟨accumulatorAs_of_accumulator rfl rfl rfl, modifiesAs_of_rows aslRow_modifies,
    accumulatorAs_of_accumulator rfl rfl rfl, modifiesAs_of_rows lsrRow_modifies,
    accumulatorAs_of_accumulator rfl rfl rfl, modifiesAs_of_rows rolRow_modifies,
    accumulatorAs_of_accumulator rfl rfl rfl, modifiesAs_of_rows rorRow_modifies⟩

theorem incRow_modifies {m : Mode} {r : Row} (h : incRow m = some r) :
    FlatRowIs (fun i m => modifyInstr i m incOp) m r := by
  cases m <;> cases h <;> exact ⟨⟨rfl, rfl, rfl, rfl⟩, rfl⟩

theorem decRow_modifies {m : Mode} {r : Row} (h : decRow m = some r) :
    FlatRowIs (fun i m => modifyInstr i m decOp) m r := by
  cases m <;> cases h <;> exact ⟨⟨rfl, rfl, rfl, rfl⟩, rfl⟩

theorem incOp_eq : incOp = increments := by
  funext m p
  have hr : m + 1 = BitVec.ofNat 8 (m.toNat + 1) := by bv_omega
  rw [incOp, increments, hr, setNZ_eq_nz]

/-- One less is 255 more modulo 256. -/
theorem decOp_eq : decOp = decrements := by
  funext m p
  have hr : m - 1 = BitVec.ofNat 8 (m.toNat + 255) := by bv_omega
  rw [decOp, decrements, hr, setNZ_eq_nz]

/-- A result for `X` and its flags, computed from `X` and the flags (R286, R288). -/
theorem setX_acts (g : Byte → Status → Byte × Status) :
    ActsOnRegisters (fun s => setP (g s.cpu.x s.cpu.p).2 (setX (g s.cpu.x s.cpu.p).1 s)) fun c =>
      { c with x := (g c.x c.p).1, p := (g c.x c.p).2 } := by
  intro s c pc h
  simp [setX, setP, h]

/-- A result for `Y` and its flags, computed from `Y` and the flags (R287, R289). -/
theorem setY_acts (g : Byte → Status → Byte × Status) :
    ActsOnRegisters (fun s => setP (g s.cpu.y s.cpu.p).2 (setY (g s.cpu.y s.cpu.p).1 s)) fun c =>
      { c with y := (g c.y c.p).1, p := (g c.y c.p).2 } := by
  intro s c pc h
  simp [setY, setP, h]

/-- Settles O48: the memory forms are read-modify-write instructions, the register forms act on one index register. -/
theorem incrementsAndDecrements : Obligations.IncrementsAndDecrements := by
  rw [Obligations.IncrementsAndDecrements, ← incOp_eq, ← decOp_eq]
  exact ⟨modifiesAs_of_rows incRow_modifies, modifiesAs_of_rows decRow_modifies,
    registersAs_of_implied rfl rfl rfl (setX_acts incOp), registersAs_of_implied rfl rfl rfl (setY_acts incOp),
    registersAs_of_implied rfl rfl rfl (setX_acts decOp), registersAs_of_implied rfl rfl rfl (setY_acts decOp)⟩

end Sys2Proof.Proofs
end

section
/-! Jumps, calls, returns, branches, BRK and RTI (spec/43_cpu_control_flow.md R310 to R323). -/

namespace Sys2Proof.Proofs

open Sys2Proof Sys2Proof.Machine Sys2Proof.Safety Sys2Proof.Claims Sys2Proof.Laws

/-- The second byte of a pointer: no carry leaves its page (R158). -/
theorem pointerHigh_eq (w : Word) :
    pair (hi w) (lo w + 1) = BitVec.ofNat 16 (w.toNat / 256 * 256 + (w.toNat + 1) % 256) := by
  have hw := w.isLt
  apply BitVec.eq_of_toNat_eq
  rw [pair_toNat, hi_toNat, BitVec.toNat_add, lo_toNat, BitVec.toNat_ofNat, show (1 : Byte).toNat = 1 from rfl]
  omega

theorem execJmpInd_eq (w : Word) (s : State) :
    exec (.jmpInd w) s =
      .next
        { (indirectTarget w (skip 3 s)).2 with
          cpu := { s.cpu with pc := (indirectTarget w (skip 3 s)).1, pending := 4 } } := by
  have hcpu : (indirectTarget w (skip 3 s)).2.cpu = (skip 3 s).cpu := rdPair_cpu _ _ _
  calc exec (.jmpInd w) s
      = .next (retire 5 (setPc (indirectTarget w (skip 3 s)).1 (indirectTarget w (skip 3 s)).2)) := rfl
    _ = _ := by rw [retire, setPending, setPc, hcpu]; rfl

/-- Settles O49: JMP indirect is two bus reads, the second at the pointer's successor inside its page. -/
theorem jumpInstructions : Obligations.JumpInstructions := by
  intro w s
  rw [← pointerHigh_eq]
  have hkeeps : ReadKeeps (skip 3 s) (indirectTarget w (skip 3 s)).2 := rdPair_keeps _ _ _
  exact ⟨⟨rfl, rfl⟩, rfl, execJmpInd_eq w s, bytesKept_of_skip (readKeeps_bytes hkeeps)⟩

theorem slot_inj {a b : Byte} : slot a = slot b ↔ a = b := by
  rw [slot, slot, Nat.add_left_cancel_iff, BitVec.toNat_inj]

/-- Two pushes, at the slots of `S` and `S - 1` (R160, R311). -/
theorem pushWord_slots (w : Word) (s : State) :
    pushWord w s =
      { s with
        ram := Mem.write (Mem.write s.ram (slot s.cpu.s) (hi w)) (slot (s.cpu.s - 1)) (lo w)
        cpu := { s.cpu with s := s.cpu.s - 2 } } := by
  have hs : s.cpu.s - 1 - 1 = s.cpu.s - 2 := sub_sub _ 1 1
  rw [pushWord_eq, hs]; rfl

/-- Two pulls, from the slots of `S + 1` and `S + 2` (R160, R312). -/
theorem pullWord_slots (s : State) :
    pullWord s =
      (Mem.read s.ram (slot (s.cpu.s + 2)) ++ Mem.read s.ram (slot (s.cpu.s + 1)),
        { s with cpu := { s.cpu with s := s.cpu.s + 2 } }) := by
  have hs : s.cpu.s + 1 + 1 = s.cpu.s + 2 := add_assoc _ 1 1
  rw [pullWord_eq, hs]; rfl

/-- The two slots of a pushed word are different bytes, `S` wrapping or not: both read back. -/
theorem read_pushedWord {m : Mem} (hm : Mem.wf m = true) (sp : Byte) (h l : Byte) :
    Mem.read (Mem.write (Mem.write m (slot sp) h) (slot (sp - 1)) l) (slot sp) = h ∧
      Mem.read (Mem.write (Mem.write m (slot sp) h) (slot (sp - 1)) l) (slot (sp - 1)) = l := by
  have hne : slot sp ≠ slot (sp - 1) := by rw [ne_eq, slot_inj]; bv_omega
  exact ⟨by rw [mem_read_write_ne hne, mem_read_write_eq hm], mem_read_write_eq (mem_wf_write hm _ _) _ _⟩

theorem execJsr_eq (w : Word) (s : State) :
    exec (.jsr w) s =
      .next
        { s with
          ram := Mem.write (Mem.write s.ram (slot s.cpu.s) (hi (s.cpu.pc + 2))) (slot (s.cpu.s - 1))
            (lo (s.cpu.pc + 2))
          cpu := { s.cpu with s := s.cpu.s - 2, pc := w, pending := 5 } } := by
  have hret : (skip 3 s).cpu.pc - 1 = s.cpu.pc + 2 := add_sub_assoc s.cpu.pc 3 1
  calc exec (.jsr w) s
      = .next (retire 6 (setPc w (pushWord ((skip 3 s).cpu.pc - 1) (skip 3 s)))) := rfl
    _ = _ := by rw [hret, pushWord_slots]; rfl

theorem execRts_eq (s : State) :
    exec .rts s =
      .next
        { s with
          cpu :=
            { s.cpu with
              s := s.cpu.s + 2
              pc := Mem.read s.ram (slot (s.cpu.s + 2)) ++ Mem.read s.ram (slot (s.cpu.s + 1)) + 1
              pending := 5 } } := by
  calc exec .rts s
      = .next (retire 6 (setPc ((pullWord (skip 1 s)).1 + 1) (pullWord (skip 1 s)).2)) := rfl
    _ = _ := by rw [pullWord_slots]; rfl

/-- Settles O50: JSR is one pushed word, RTS one pulled word. -/
theorem subroutineCallAndReturn : Obligations.SubroutineCallAndReturn := by
  intro w s
  refine ⟨rfl, execJsr_eq w s, fun k hhigh hlow => ?_, fun hwf => read_pushedWord hwf _ _ _, rfl, execRts_eq s⟩
  exact (mem_read_write_ne hlow _ _).trans (mem_read_write_ne hhigh _ _)

/-- What a taken branch still owes after its first tick: one tick more for another page (R313, R400). -/
theorem branchTicks_taken (a b : Word) :
    branchTicks (pageCross a b) true - 1 = if a.toNat / 256 = b.toNat / 256 then 2 else 3 := by
  split
  · next h =>
    have hcross : pageCross a b = false := by
      rw [← Bool.not_eq_true, pageCross_iff]; exact not_not.mpr h
    rw [hcross]; rfl
  · next h => rw [(pageCross_iff a b).mpr h]; rfl

/-- A conditional branch, from its code, its meaning and its ticks (R313, R159). -/
theorem branchesAs_of_branch {op : Byte} {mk : Byte → Instr} {cond : Status → Bool}
    (hcode : ∀ b, encode (mk b) = [op, b]) (hexec : ∀ b s, exec (mk b) s = branchInstr (mk b) (cond s.cpu.p) b s)
    (hticks : ∀ b cross taken, cpuCycles (mk b) cross taken = branchTicks cross taken) : BranchesAs op mk cond := by
  intro b s next target
  refine ⟨hcode b, ?_⟩
  rw [hexec, branchInstr, hticks, hticks]
  cases cond s.cpu.p with
  | false => rfl
  | true =>
    rw [if_pos rfl, if_pos rfl, if_pos rfl, ← branchTicks_taken]
    rfl

/-- Settles O51: the eight branches differ in their flag condition alone. -/
theorem branchInstructions : Obligations.BranchInstructions :=
  ⟨branchesAs_of_branch (fun _ => rfl) (fun _ _ => rfl) fun _ _ _ => rfl,
    branchesAs_of_branch (fun _ => rfl) (fun _ _ => rfl) fun _ _ _ => rfl,
    branchesAs_of_branch (fun _ => rfl) (fun _ _ => rfl) fun _ _ _ => rfl,
    branchesAs_of_branch (fun _ => rfl) (fun _ _ => rfl) fun _ _ _ => rfl,
    branchesAs_of_branch (fun _ => rfl) (fun _ _ => rfl) fun _ _ _ => rfl,
    branchesAs_of_branch (fun _ => rfl) (fun _ _ => rfl) fun _ _ _ => rfl,
    branchesAs_of_branch (fun _ => rfl) (fun _ _ => rfl) fun _ _ _ => rfl,
    branchesAs_of_branch (fun _ => rfl) (fun _ _ => rfl) fun _ _ _ => rfl⟩

/-- A flag's weight in the status byte. -/
theorem weight_eq (b : Bool) (k : Nat) : (if b then k else 0) = k * b.toNat := by
  cases b <;> simp

/-- The status byte by bits and by weights (R24). -/
theorem pByte_eq_statusByte (b : Bool) (p : Status) : pByte b p = statusByte b p := by
  have hcat {w : Nat} (x : BitVec w) (c : Bool) : (x ++ BitVec.ofBool c).toNat = x.toNat * 2 + c.toNat :=
    BitVec.toNat_concat x c
  have hone {w : Nat} (x : BitVec w) : (x ++ 1#1).toNat = x.toNat * 2 + 1 := BitVec.toNat_concat x true
  apply eq_ofNat_of_toNat
  simp only [pByte, weight_eq, hcat, hone, BitVec.toNat_ofBool]
  ring

/-- The flags of a status byte by bits and by weights (R24). -/
theorem flagsOfByte_eq_flagsFrom (v : Byte) : flagsOfByte v = flagsFrom v := by
  have hbit (k : Nat) : v.getLsbD k = decide (v.toNat / 2 ^ k % 2 = 1) := Nat.testBit_eq_decide_div_mod_eq
  rw [flagsOfByte, flagsFrom, bit_seven_eq, bit_zero_eq, hbit 6, hbit 3, hbit 2, hbit 1]
  rfl

/-- The byte the mapper shows at an address of program storage (R500, R503). -/
theorem peek_eq_programByte {a : Word} (h : 0x8000 ≤ a.toNat) (s : State) : peek a s = programByte s a := by
  rw [peek_cart h, prgIndex, separateWindows, programByte, apply_ite (Mem.read s.cart.prg)]

/-- Entering a handler, with the 7 ticks of the sequence: three pushed bytes, `I`, and the vector (R710, R322). -/
theorem retire_enterHandler (ret : Word) (b : Bool) {vector : Word} (h1 : 0x8000 ≤ vector.toNat)
    (h2 : 0x8000 ≤ (vector + 1).toNat) (s : State) :
    retire 7 (enterHandler ret b vector s) = entered ret (statusByte b s.cpu.p) vector s := by
  have hs2 : s.cpu.s - 1 - 1 = s.cpu.s - 2 := sub_sub _ 1 1
  have hs3 : s.cpu.s - 2 - 1 = s.cpu.s - 3 := sub_sub _ 2 1
  rw [enterHandler_eq ret b h1 h2, hs2, hs3, pByte_eq_statusByte, peek_eq_programByte h1, peek_eq_programByte h2]
  rfl

theorem execBrk_eq (s : State) :
    exec .brk s = .next (entered (s.cpu.pc + 2) (statusByte true s.cpu.p) 0xFFFE s) := by
  have hret : (skip 1 s).cpu.pc + 1 = s.cpu.pc + 2 := add_assoc s.cpu.pc 1 1
  calc exec .brk s
      = .next (retire 7 (enterHandler ((skip 1 s).cpu.pc + 1) true 0xFFFE (skip 1 s))) := rfl
    _ = .next (entered ((skip 1 s).cpu.pc + 1) (statusByte true s.cpu.p) 0xFFFE (skip 1 s)) := by
      rw [retire_enterHandler _ _ (by decide) (by decide)]; rfl
    _ = .next (entered (s.cpu.pc + 2) (statusByte true s.cpu.p) 0xFFFE s) := by rw [hret]; rfl

/-- A handler entry changes the bytes of its three slots only (R710). -/
theorem entered_ram_ne {s : State} {k : Nat} (h0 : k ≠ slot s.cpu.s) (h1 : k ≠ slot (s.cpu.s - 1))
    (h2 : k ≠ slot (s.cpu.s - 2)) (ret : Word) (pb : Byte) (vector : Word) :
    Mem.read (entered ret pb vector s).ram k = Mem.read s.ram k :=
  (mem_read_write_ne h2 _ _).trans ((mem_read_write_ne h1 _ _).trans (mem_read_write_ne h0 _ _))

/-- The three slots of a handler entry are different bytes, `S` wrapping or not: all three read back (R710). -/
theorem entered_ram_slots {s : State} (hwf : Mem.wf s.ram = true) (ret : Word) (pb : Byte) (vector : Word) :
    Mem.read (entered ret pb vector s).ram (slot s.cpu.s) = hi ret ∧
      Mem.read (entered ret pb vector s).ram (slot (s.cpu.s - 1)) = lo ret ∧
      Mem.read (entered ret pb vector s).ram (slot (s.cpu.s - 2)) = pb := by
  have hne0 : slot s.cpu.s ≠ slot (s.cpu.s - 2) := by rw [ne_eq, slot_inj]; bv_omega
  have hne1 : slot (s.cpu.s - 1) ≠ slot (s.cpu.s - 2) := by rw [ne_eq, slot_inj]; bv_omega
  obtain ⟨hhigh, hlow⟩ := read_pushedWord hwf s.cpu.s (hi ret) (lo ret)
  exact ⟨(mem_read_write_ne hne0 _ _).trans hhigh, (mem_read_write_ne hne1 _ _).trans hlow,
    mem_read_write_eq (mem_wf_write (mem_wf_write hwf _ _) _ _) _ _⟩

/-- Settles O52: BRK is a handler entry, and the rest is the handler entry's stack frame. -/
theorem breakInstruction : Obligations.BreakInstruction := fun s =>
  ⟨rfl, execBrk_eq s, fun _ h0 h1 h2 => entered_ram_ne h0 h1 h2 _ _ _, fun hwf => entered_ram_slots hwf _ _ _⟩

theorem execRti_eq (s : State) :
    exec .rti s =
      .next
        { s with
          cpu :=
            { s.cpu with
              s := s.cpu.s + 3, p := flagsFrom (Mem.read s.ram (slot (s.cpu.s + 1)))
              pc := Mem.read s.ram (slot (s.cpu.s + 3)) ++ Mem.read s.ram (slot (s.cpu.s + 2))
              pending := 5 } } := by
  have hs2 : s.cpu.s + 1 + 1 = s.cpu.s + 2 := add_assoc _ 1 1
  have hs3 : s.cpu.s + 2 + 1 = s.cpu.s + 3 := add_assoc _ 2 1
  calc exec .rti s
      = .next (retire 6 (returnFromInterrupt (skip 1 s))) := rfl
    _ = _ := by rw [returnFromInterrupt_eq, skip_cpu, hs2, hs3, flagsOfByte_eq_flagsFrom]; rfl

/-- Settles O53: the status byte's slot first, then the two of `PC`. -/
theorem returnFromInterrupt : Obligations.ReturnFromInterrupt := fun s => ⟨rfl, execRti_eq s⟩

end Sys2Proof.Proofs
end

section
/-! Flag operations, stack operations and NOP (spec/44_cpu_flags_stack_nop.md R350 to R361). -/

namespace Sys2Proof.Proofs

open Sys2Proof Sys2Proof.Machine Sys2Proof.Safety Sys2Proof.Claims Sys2Proof.Laws

/-- A push, at the slot of `S` (R160). -/
theorem push_slot (v : Byte) (s : State) :
    push v s = { s with ram := Mem.write s.ram (slot s.cpu.s) v, cpu := { s.cpu with s := s.cpu.s - 1 } } :=
  push_eq v s

/-- A pull, from the slot of `S + 1` (R160). -/
theorem pull_slot (s : State) :
    pull s = (Mem.read s.ram (slot (s.cpu.s + 1)), { s with cpu := { s.cpu with s := s.cpu.s + 1 } }) :=
  pull_eq s

/-- A one-byte instruction of 3 ticks that pushes a byte (R147, R160). -/
theorem exec_of_push {i : Instr} {v : Byte} {s : State}
    (hexec : exec i s = .next (retire 3 (push v (skip 1 s)))) :
    exec i s =
      .next
        { s with
          ram := Mem.write s.ram (slot s.cpu.s) v
          cpu := { s.cpu with s := s.cpu.s - 1, pc := s.cpu.pc + 1, pending := 2 } } := by
  rw [hexec, push_slot]; rfl

theorem execPla_eq (s : State) :
    exec .pla s =
      .next
        { s with
          cpu :=
            { s.cpu with
              s := s.cpu.s + 1, pc := s.cpu.pc + 1, pending := 3
              a := Mem.read s.ram (slot (s.cpu.s + 1)), p := nz (Mem.read s.ram (slot (s.cpu.s + 1))) s.cpu.p } } := by
  calc exec .pla s
      = .next (retire 4 (pullA (skip 1 s))) := rfl
    _ = _ := by rw [pullA, pull_slot, setNZ_eq_nz]; rfl

theorem execPlp_eq (s : State) :
    exec .plp s =
      .next
        { s with
          cpu :=
            { s.cpu with
              s := s.cpu.s + 1, pc := s.cpu.pc + 1, pending := 3
              p := flagsFrom (Mem.read s.ram (slot (s.cpu.s + 1))) } } := by
  calc exec .plp s
      = .next (retire 4 (pullP (skip 1 s))) := rfl
    _ = _ := by rw [pullP, pull_slot, flagsOfByte_eq_flagsFrom]; rfl

/-- The flags come back from the status byte, whatever its bit 4: six flags and that bit are 128 cases (R24). -/
theorem flagsOfByte_pByte (b : Bool) (p : Status) : flagsOfByte (pByte b p) = p := by
  obtain ⟨n, v, d, i, z, c⟩ := p
  revert b n v d i z c
  decide

/-- Settles O55: one pushed or pulled byte each, and the status byte bit by bit. -/
theorem stackInstructions : Obligations.StackInstructions := by
  intro s pushed pulled c
  have hphp : exec .php s = .next (retire 3 (push (statusByte true s.cpu.p) (skip 1 s))) := by
    rw [← pByte_eq_statusByte]; rfl
  have hstatus (b : Bool) (p : Status) : pByte b p = statusByte b p ∧ flagsOfByte (statusByte b p) = p :=
    ⟨pByte_eq_statusByte b p, by rw [← pByte_eq_statusByte, flagsOfByte_pByte]⟩
  exact ⟨⟨rfl, exec_of_push rfl⟩, ⟨rfl, exec_of_push hphp⟩, fun v _ hk => mem_read_write_ne hk s.ram v,
    fun v hwf => mem_read_write_eq hwf _ v, ⟨rfl, execPla_eq s⟩, ⟨rfl, execPlp_eq s⟩, hstatus, flagsOfByte_eq_flagsFrom⟩

/-- A one-byte instruction of 2 ticks that computes the flags from the flags (R147). -/
theorem registersAs_of_setP {op : Byte} {i : Instr} (g : Status → Status) (hcode : encode i = [op])
    (hexec : exec i = impliedInstr i fun s => setP (g s.cpu.p) s) (hticks : cpuCycles i false false = 2) :
    RegistersAs op i fun c => { c with p := g c.p } :=
  registersAs_of_implied hcode hexec hticks
    (setP_acts (p := fun c => g c.p) (fun _ _ => rfl) fun _ => rfl)

theorem noOperation_acts : ActsOnRegisters noOperation fun c => c := by
  intro s c pc h
  rw [noOperation, ← h]

/-- Settles O54: seven instructions give one flag its new value, NOP acts on no register. -/
theorem flagInstructionsAndNop : Obligations.FlagInstructionsAndNop :=
  ⟨registersAs_of_setP (fun p => { p with c := false }) rfl rfl rfl,
    registersAs_of_setP (fun p => { p with c := true }) rfl rfl rfl,
    registersAs_of_setP (fun p => { p with i := false }) rfl rfl rfl,
    registersAs_of_setP (fun p => { p with i := true }) rfl rfl rfl,
    registersAs_of_setP (fun p => { p with d := false }) rfl rfl rfl,
    registersAs_of_setP (fun p => { p with d := true }) rfl rfl rfl,
    registersAs_of_setP (fun p => { p with v := false }) rfl rfl rfl,
    registersAs_of_implied rfl rfl rfl noOperation_acts⟩

end Sys2Proof.Proofs
end

section
/-! The CPU core's glue (spec/45_cpu_core_glue.md R400, R401, R410): what a dot-step does before its CPU tick, and the
instruction that a CPU tick with nothing owed runs. -/

namespace Sys2Proof.Proofs

open Sys2Proof Sys2Proof.Machine Sys2Proof.Safety Sys2Proof.Claims Sys2Proof.Laws

theorem step_of_cpuDiv_lt {s : State} (h : s.cpuDiv < 2) : step s = .next (dotPrelude s) :=
  if_neg (by simp only [cpuTickDue, beq_iff_eq]; omega)

theorem step_of_cpuDiv_eq {s : State} (h : s.cpuDiv = 2) : step s = cpuTick (dotPrelude s) :=
  if_pos (by simp [cpuTickDue, h])

theorem dotPrelude_cpuDiv_succ {s : State} (h : s.cpuDiv < 2) : (dotPrelude s).cpuDiv = s.cpuDiv + 1 :=
  if_neg (by change s.cpuDiv + 1 ≠ 3; omega)

theorem dotPrelude_cpuDiv_zero {s : State} (h : s.cpuDiv = 2) : (dotPrelude s).cpuDiv = 0 :=
  if_pos (congrArg (· + 1) h)

/-- The audio producer's turn touches the APU and `draws` alone, so the PPU ticks as from the state before it (R410;
n6). -/
theorem dotPrelude_effect (s : State) :
    (dotPrelude s).ppu = (ppuTick s).ppu ∧ (dotPrelude s).cpu = (ppuTick s).cpu ∧ (dotPrelude s).ram = s.ram ∧
      (dotPrelude s).hc = s.hc ∧ (dotPrelude s).cart = s.cart ∧ (dotPrelude s).mp = s.mp ∧
      (dotPrelude s).ctrlShift = s.ctrlShift :=
  ⟨rfl, rfl, rfl, rfl, rfl, rfl, rfl⟩

/-- Settles O6: the prelude is the state reached, or the state whose CPU ticks, as the divider says. -/
theorem dotStepOrder : Obligations.DotStepOrder := fun s =>
  ⟨fun h => ⟨dotPrelude s, step_of_cpuDiv_lt h, dotPrelude_cpuDiv_succ h, dotPrelude_effect s⟩,
    fun h => ⟨dotPrelude s, step_of_cpuDiv_eq h, dotPrelude_cpuDiv_zero h, dotPrelude_effect s⟩⟩

/-- A CPU tick with nothing owed and nothing to take (R400, R707). -/
theorem cpuTick_eq_executeOne {s : State} (hhalt : s.cpu.halt = 0) (hpending : s.cpu.pending = 0)
    (hnmi : s.cpu.nmiPending = false) (hirq : s.cpu.irqPending = true → s.cpu.p.i = true) :
    cpuTick s = executeOne s := by
  have hnone : (s.cpu.irqPending && !s.cpu.p.i) = false := by simpa using hirq
  simp [cpuTick, hhalt, hpending, hnmi, hnone]

theorem nmiDue_eq_false {p : Ppu} (h : ¬ (p.scanline = 241 ∧ p.dot = 1 ∧ p.ctrl.getLsbD 7 = true)) :
    nmiDue p = false := by
  simpa [nmiDue, vblankDue] using h

/-- A dot-step that reaches an instruction: the prelude raises no NMI, so the tick finds nothing to take. -/
theorem step_eq_executeOne {s : State} (h : InstructionDue s) : step s = executeOne (dotPrelude s) := by
  have hnmi : (dotPrelude s).cpu.nmiPending = false := by
    change (s.cpu.nmiPending || nmiDue s.ppu) = false
    rw [h.noNmi, nmiDue_eq_false h.noNmiNow, Bool.or_false]
  rw [step_of_cpuDiv_eq h.divider]
  exact cpuTick_eq_executeOne h.halt h.pending hnmi h.noIrq

/-- The fetch reads as many bytes as the decoded instruction has, one case per format (R141, R401). -/
theorem executeOne_of_decode {s : State} {i : Instr} {rest : List Byte} {r0 r1 r2 : Byte × State}
    (h0 : rd s.cpu.pc s = r0) (h1 : rd (s.cpu.pc + 1) r0.2 = r1) (h2 : rd (s.cpu.pc + 2) r1.2 = r2)
    (h : decode [r0.1, r1.1, r2.1] = some (i, rest)) :
    executeOne s = exec i ([r0.2, r1.2, r2.2].getD ((encode i).length - 1) s) := by
  obtain ⟨code, hcode, hbytes⟩ := decode_cases h
  rw [encode_codeOf hcode]
  cases hcode with
  | alone hop =>
    simp only [List.cons_append, List.cons.injEq] at hbytes
    obtain ⟨rfl, -⟩ := hbytes
    change _ = exec _ r0.2
    simp only [executeOne, fetchInstr, h0, hop]
  | withByte hop b =>
    simp only [List.cons_append, List.cons.injEq] at hbytes
    obtain ⟨rfl, rfl, -⟩ := hbytes
    change _ = exec _ r1.2
    simp only [executeOne, fetchInstr, h0, h1, hop]
  | withWord hop w =>
    simp only [List.cons_append, List.cons.injEq] at hbytes
    obtain ⟨rfl, hlo, hhi, -⟩ := hbytes
    change _ = exec _ r2.2
    simp only [executeOne, fetchInstr, h0, h1, h2, hop, hlo, hhi, pair_hi_lo]

/-- Code in work RAM or program storage: its reads leave the state as it is, whatever their number. -/
theorem executeOne_of_decode_peek {s : State} {i : Instr} {rest : List Byte}
    (hplace : ∀ k : Fin 3, (s.cpu.pc + BitVec.ofNat 16 k.val).toNat ≤ 0x1FFF ∨
      0x8000 ≤ (s.cpu.pc + BitVec.ofNat 16 k.val).toNat)
    (h : decode [peek s.cpu.pc s, peek (s.cpu.pc + 1) s, peek (s.cpu.pc + 2) s] = some (i, rest)) :
    executeOne s = exec i s := by
  have h0 : rd s.cpu.pc s = (peek s.cpu.pc s, s) := rd_storable (by simpa using hplace 0) s
  have h1 : rd (s.cpu.pc + 1) s = (peek (s.cpu.pc + 1) s, s) := rd_storable (hplace 1) s
  have h2 : rd (s.cpu.pc + 2) s = (peek (s.cpu.pc + 2) s, s) := rd_storable (hplace 2) s
  rw [executeOne_of_decode h0 h1 h2 h]
  exact congrArg (exec i) (List.getElem?_getD_replicate_default_eq s 3 _)

/-- Settles O5: the step is the fetch and the decoded instruction's meaning, in general and where the reads have no
effect. -/
theorem stepRunsTheDecodedInstruction : Obligations.StepRunsTheDecodedInstruction := fun _ _ _ hdue =>
  ⟨fun h => (step_eq_executeOne hdue).trans (executeOne_of_decode rfl rfl rfl h),
    fun hplace h => (step_eq_executeOne hdue).trans (executeOne_of_decode_peek hplace h)⟩

end Sys2Proof.Proofs
end

section
/-! The simple CPU-bus peripherals (spec/46_bus_peripherals.md R430 to R453): work RAM, the controller port and the
host-call port. -/

namespace Sys2Proof.Proofs

open Sys2Proof Sys2Proof.Machine Sys2Proof.Safety Sys2Proof.Claims Sys2Proof.Laws

/-- The byte is visible to the next read of any of its four addresses (R431). -/
theorem rd_wr_ram_mirror {a b : Word} (ha : a.toNat ≤ 0x1FFF) (hb : b.toNat ≤ 0x1FFF)
    (hmirror : ramIndex b = ramIndex a) (v : Byte) {s : State} (hm : Mem.wf s.ram = true) :
    (rd b (wr a v s)).1 = v := by
  rw [wr_ram ha, rd_ram hb, hmirror]
  exact mem_read_write_eq hm (ramIndex a) v

/-- Settles O17: the two accesses by region, and a byte read back after a write. -/
theorem workRamIsMirrored : Obligations.WorkRamIsMirrored := by
  intro a b v s ha
  refine ⟨rd_ram ha s, wr_ram ha v s, fun k hk => ?_, fun hm hb hmirror => rd_wr_ram_mirror ha hb hmirror v hm⟩
  rw [wr_ram ha]
  exact mem_read_write_ne hk s.ram v

/-- `n` reads of the controller port: the bytes, in order, and the state after them (R442). -/
def controllerReads (n : Nat) (s : State) : List Byte × State :=
  (List.range n).foldl (fun acc _ => (acc.1 ++ [(rd ctrlPort acc.2).1], (rd ctrlPort acc.2).2)) ([], s)

theorem controllerReads_succ (n : Nat) (s : State) :
    controllerReads (n + 1) s =
      ((controllerReads n s).1 ++ [(rd ctrlPort (controllerReads n s).2).1],
        (rd ctrlPort (controllerReads n s).2).2) := by
  rw [controllerReads, List.range_succ, List.foldl_append]
  rfl

/-- After `n` shifts the top bit is the bit that stood `n` places below it (R442). -/
theorem getLsbD_seven_shiftLeft {n : Nat} (hn : n < 8) (x : Byte) : (x <<< n).getLsbD 7 = x.getLsbD (7 - n) := by
  have hle : ¬ 7 < n := by omega
  simp only [BitVec.getLsbD_shiftLeft, hle, decide_false, Bool.not_false, Bool.and_true]
  rfl

/-- Up to eight reads give the register's bits from bit 7 down and shift it left as often (R442). -/
theorem controllerReads_eq {n : Nat} (hn : n ≤ 8) (s : State) :
    controllerReads n s =
      ((List.range n).map (fun k => if s.ctrlShift.getLsbD (7 - k) then 0x01 else 0x00),
        { s with ctrlShift := s.ctrlShift <<< n }) := by
  induction n with
  | zero => simp [controllerReads]
  | succ n ih =>
    rw [controllerReads_succ, ih (by omega), rd_ctrl, List.range_succ, List.map_append]
    simp only [getLsbD_seven_shiftLeft (show n < 8 by omega), BitVec.shiftLeft_add, List.map_cons, List.map_nil]

/-- A zero register stays zero, and every read of it gives 0x00 (R442). -/
theorem rd_ctrl_of_zero {s : State} (h : s.ctrlShift = 0x00) : rd ctrlPort s = (0x00, s) := by
  have htop : ¬ s.ctrlShift.getLsbD 7 = true := by rw [h]; decide
  have hshift : s.ctrlShift <<< 1 = s.ctrlShift := by rw [h]; rfl
  rw [rd_ctrl, if_neg htop, hshift]

/-- Settles O22: the write and the read by region, and eight reads as eight shifts. -/
theorem controllerPort : Obligations.ControllerPort := by
  intro v s
  have height : eightReads s = _ := controllerReads_eq (le_refl 8) s
  have hempty : s.ctrlShift <<< 8 = 0x00 := BitVec.shiftLeft_eq_zero (le_refl 8)
  refine ⟨fun hv => (wr_ctrl v s).trans (if_pos hv), fun hv => (wr_ctrl v s).trans (if_neg (ne_true_of_eq_false hv)),
    ?_, ?_, ?_, rd_ctrl_of_zero, rfl, ?_⟩
  · rw [← shl_one_eq]
    exact rd_ctrl s
  · rw [height]
  · rw [height, hempty]
  · rw [rd_unmapped (by decide) (by decide) (not_hostcall (by decide))]

theorem isHostcallPort_hostcallPort : isHostcallPort hostcallPort = true := by
  have hoffset := Config.hostcallOffset.isLt
  have hport : hostcallPort.toNat = 0x4020 + Config.hostcallOffset.val := by
    rw [hostcallPort, BitVec.toNat_ofNat]
    omega
  simp only [isHostcallPort, Bool.and_eq_true, decide_eq_true_eq, and_true]
  omega

/-- The declared argument count, 0 for an unregistered id (n21). -/
theorem hostDeclared_eq (id : Byte) : hostDeclared id = ((Config.hostArity id).map Fin.val).getD 0 := by
  unfold hostDeclared
  cases Config.hostArity id <;> rfl

/-- An invocation stores the callback's byte and returns to idle (R447). -/
theorem hostInvoke_hc (s : State) :
    (hostInvoke s).hc =
      { s.hc with
        phase := .idle
        ret := Config.hostReturn s.hc.id (s.hc.args.get 0) (s.hc.args.get 1) (s.hc.args.get 2) (s.hc.args.get 3)
          (Mem.bytes s.ram 2048) } := rfl

/-- Work RAM after an invocation is the callback's (R452; n8). -/
theorem hostInvoke_ram (s : State) {k : Nat} (hk : k < 2048) :
    Mem.read (hostInvoke s).ram k =
      Config.hostRam s.hc.id (s.hc.args.get 0) (s.hc.args.get 1) (s.hc.args.get 2) (s.hc.args.get 3)
        (Mem.bytes s.ram 2048) k :=
  mem_read_tabulate _ 0 2048 k (Nat.zero_le k) (by omega)

/-- The bridge on a call id: no argument collected yet (R447). -/
def callStarted (v : Byte) (s : State) : State :=
  { s with hc := { s.hc with id := v, args := #v[0, 0, 0, 0], got := 0 } }

/-- The bridge on an argument byte: in the next slot (R448). -/
def argumentTaken (v : Byte) (s : State) : State :=
  { s with hc := { s.hc with args := s.hc.args.setIfInBounds s.hc.got v, got := s.hc.got + 1 } }

/-- An unregistered id (R451). -/
theorem hostWriteIdle_unregistered {v : Byte} (h : Config.hostArity v = none) (s : State) : hostWriteIdle v s = s := by
  simp only [hostWriteIdle, h]

/-- A registered id without arguments (R447). -/
theorem hostWriteIdle_noArgument {v : Byte} (h : Config.hostArity v = some 0) (s : State) :
    hostWriteIdle v s = hostInvoke (callStarted v s) := by
  simp only [hostWriteIdle, h]
  rfl

/-- A registered id with arguments starts a collection (R447). -/
theorem hostWriteIdle_collects {v : Byte} (hreg : Config.hostArity v ≠ none) (hargs : Config.hostArity v ≠ some 0)
    (s : State) :
    hostWriteIdle v s =
      { callStarted v s with hc := { (callStarted v s).hc with phase := .collecting } } := by
  obtain ⟨n, hn⟩ := Option.ne_none_iff_exists'.mp hreg
  have hpos : n.val ≠ 0 := fun h0 => hargs (hn.trans (congrArg some (Fin.ext h0)))
  simp only [hostWriteIdle, hn, if_neg hpos]
  rfl

/-- The last argument invokes, an earlier one does not (R448). -/
theorem hostWriteCollecting_eq_ite (v : Byte) (s : State) :
    hostWriteCollecting v s =
      if s.hc.got + 1 = hostDeclared s.hc.id then hostInvoke (argumentTaken v s) else argumentTaken v s := rfl

/-- The port's writer changes the bridge and work RAM alone (R452). -/
theorem wr_hostcallPort_frame (v : Byte) (s : State) :
    { wr hostcallPort v s with ram := s.ram, hc := s.hc } = s :=
  congrArg (fun t : State => { t with ram := s.ram, hc := s.hc }) (wr_host_eq isHostcallPort_hostcallPort v s)

theorem wr_hostcallPort_inCall {s : State} (h : s.hc.phase = .inCall) (v : Byte) : wr hostcallPort v s = s := by
  rw [wr_host isHostcallPort_hostcallPort, h]

theorem wr_hostcallPort_idle {s : State} (h : s.hc.phase = .idle) (v : Byte) :
    wr hostcallPort v s = hostWriteIdle v s := by
  rw [wr_host isHostcallPort_hostcallPort, h]

theorem wr_hostcallPort_collecting {s : State} (h : s.hc.phase = .collecting) (v : Byte) :
    wr hostcallPort v s = hostWriteCollecting v s := by
  rw [wr_host isHostcallPort_hostcallPort, h]

/-- Settles O23: the write by the bridge's phase, then by the id's or the collection's argument count. -/
theorem hostCallProtocol : Obligations.HostCallProtocol := by
  intro v s a1 declared answer after t
  refine ⟨rd_host isHostcallPort_hostcallPort s, wr_hostcallPort_frame v s, fun h => wr_hostcallPort_inCall h v,
    fun h => ?_, fun h => ?_⟩
  · have ht : t = hostWriteIdle v s := wr_hostcallPort_idle h v
    rw [ht]
    split
    · next hnone => exact hostWriteIdle_unregistered hnone s
    · next hreg =>
      split
      · next hzero =>
        rw [hostWriteIdle_noArgument hzero]
        exact ⟨hostInvoke_hc _, fun k hk => hostInvoke_ram _ hk⟩
      · next hargs =>
        rw [hostWriteIdle_collects hreg hargs]
        exact ⟨rfl, rfl⟩
  · have ht : t = hostWriteCollecting v s := wr_hostcallPort_collecting h v
    have hdeclared : declared = hostDeclared s.hc.id := (hostDeclared_eq s.hc.id).symm
    rw [ht, hostWriteCollecting_eq_ite, hdeclared]
    split
    · exact ⟨hostInvoke_hc _, fun k hk => hostInvoke_ram _ hk⟩
    · exact ⟨rfl, rfl⟩

end Sys2Proof.Proofs
end

section
/-! A property that every access of the machine keeps holds after every step (spec/45_cpu_core_glue.md R400, R410). -/

namespace Sys2Proof.Proofs

open Sys2Proof Sys2Proof.Machine Sys2Proof.Safety Sys2Proof.Claims Sys2Proof.Laws

/-- `P` survives what a step is made of: its prelude, a change of CPU fields beside the IRQ line, a bus read, a bus
write. -/
structure KeptByAccesses (P : State → Prop) : Prop where
  dot : ∀ {s : State}, P s → P (dotPrelude s)
  cpu : ∀ {s t : State}, P s → t = { s with cpu := { t.cpu with irqPending := s.cpu.irqPending } } → P t
  read : ∀ (a : Word) {s : State}, P s → P (rd a s).2
  write : ∀ (a : Word) (v : Byte) {s : State}, P s → P (wr a v s)

namespace KeptByAccesses

variable {P : State → Prop} {s t : State}

theorem setPc (hP : KeptByAccesses P) (v : Word) (hs : P s) : P (setPc v s) := hP.cpu hs rfl

theorem setS (hP : KeptByAccesses P) (v : Byte) (hs : P s) : P (setS v s) := hP.cpu hs rfl

theorem setP (hP : KeptByAccesses P) (p : Status) (hs : P s) : P (setP p s) := hP.cpu hs rfl

theorem setNmiPending (hP : KeptByAccesses P) (b : Bool) (hs : P s) : P (setNmiPending b s) := hP.cpu hs rfl

theorem skip (hP : KeptByAccesses P) (n : Nat) (hs : P s) : P (skip n s) := hP.setPc _ hs

theorem retire (hP : KeptByAccesses P) (n : Nat) (hs : P s) : P (retire n s) := hP.cpu hs rfl

theorem readPair (hP : KeptByAccesses P) (al ah : Word) (hs : P s) : P (rdPair al ah s).2 :=
  hP.read ah (hP.read al hs)

theorem of_effAddr (m : Mode) (hs : P s) : P (effAddr m s).st := by
  rwa [effAddr_state]

theorem push (hP : KeptByAccesses P) (v : Byte) (hs : P s) : P (push v s) :=
  hP.setS _ (hP.write (stackAddr s.cpu.s) v hs)

theorem pushWord (hP : KeptByAccesses P) (w : Word) (hs : P s) : P (pushWord w s) := hP.push (lo w) (hP.push (hi w) hs)

theorem pull (hP : KeptByAccesses P) (hs : P s) : P (pull s).2 := hP.read _ (hP.setS _ hs)

theorem pullWord (hP : KeptByAccesses P) (hs : P s) : P (pullWord s).2 := by
  rw [pullWord_eq]
  exact hP.cpu hs rfl

theorem enterHandler (hP : KeptByAccesses P) (ret : Word) (b : Bool) (vector : Word) (hs : P s) :
    P (enterHandler ret b vector s) :=
  hP.setPc _ (hP.readPair _ _ (hP.setP _ (hP.push _ (hP.pushWord ret hs))))

theorem of_impliedInstr (hP : KeptByAccesses P) {i : Instr} {f : State → State}
    (h : impliedInstr i f s = .next t) (hs : P s) (hf : ∀ {s}, P s → P (f s)) : P t := by
  cases h
  exact hP.retire _ (hf (hP.skip 1 hs))

theorem of_immediateInstr (hP : KeptByAccesses P) {i : Instr} {b : Byte} {f : Byte → State → State}
    (h : immediateInstr i b f s = .next t) (hs : P s) (hf : ∀ v {s}, P s → P (f v s)) : P t := by
  cases h
  exact hP.retire _ (hf b (hP.skip 2 hs))

theorem of_readInstr (hP : KeptByAccesses P) {i : Instr} {m : Mode} {f : Byte → State → State}
    (h : readInstr i m f s = .next t) (hs : P s) (hf : ∀ v {s}, P s → P (f v s)) : P t := by
  cases h
  exact hP.retire _ (hf _ (hP.read _ (of_effAddr m (hP.skip _ hs))))

theorem of_writeInstr (hP : KeptByAccesses P) {i : Instr} {m : Mode} {v : Cpu → Byte}
    (h : writeInstr i m v s = .next t) (hs : P s) : P t := by
  cases h
  exact hP.retire _ (hP.write _ _ (of_effAddr m (hP.skip _ hs)))

theorem of_modifyInstr (hP : KeptByAccesses P) {i : Instr} {m : Mode} {f : Byte → Status → Byte × Status}
    (h : modifyInstr i m f s = .next t) (hs : P s) : P t := by
  cases h
  exact hP.retire _ (hP.setP _ (hP.write _ _ (hP.read _ (of_effAddr m (hP.skip _ hs)))))

theorem of_accumulatorInstr (hP : KeptByAccesses P) {i : Instr} {f : Byte → Status → Byte × Status}
    (h : accumulatorInstr i f s = .next t) (hs : P s) : P t := by
  cases h
  exact hP.cpu hs rfl

theorem of_branchInstr (hP : KeptByAccesses P) {i : Instr} {cond : Bool} {b : Byte}
    (h : branchInstr i cond b s = .next t) (hs : P s) : P t := by
  cases cond with
  | true => cases h; exact hP.cpu hs rfl
  | false => cases h; exact hP.cpu hs rfl

/-- By the shape of the instruction. -/
theorem of_exec (hP : KeptByAccesses P) (i : Instr) (h : exec i s = .next t) (hs : P s) : P t := by
  cases i with
  | ldaImm | ldxImm | ldyImm | adcImm | sbcImm | andImm | oraImm | eorImm | cmpImm | cpxImm | cpyImm =>
    exact hP.of_immediateInstr h hs fun _ _ hs => hP.cpu hs rfl
  | ldaZp | ldaZpx | ldaAbs | ldaAbsx | ldaAbsy | ldaIndx | ldaIndy | ldxZp | ldxZpy | ldxAbs | ldxAbsy | ldyZp
  | ldyZpx | ldyAbs | ldyAbsx | adcZp | adcZpx | adcAbs | adcAbsx | adcAbsy | adcIndx | adcIndy | sbcZp | sbcZpx
  | sbcAbs | sbcAbsx | sbcAbsy | sbcIndx | sbcIndy | andZp | andZpx | andAbs | andAbsx | andAbsy | andIndx | andIndy
  | oraZp | oraZpx | oraAbs | oraAbsx | oraAbsy | oraIndx | oraIndy | eorZp | eorZpx | eorAbs | eorAbsx | eorAbsy
  | eorIndx | eorIndy | cmpZp | cmpZpx | cmpAbs | cmpAbsx | cmpAbsy | cmpIndx | cmpIndy | cpxZp | cpxAbs | cpyZp
  | cpyAbs | bitZp | bitAbs =>
    exact hP.of_readInstr h hs fun _ _ hs => hP.cpu hs rfl
  | staZp | staZpx | staAbs | staAbsx | staAbsy | staIndx | staIndy | stxZp | stxZpy | stxAbs | styZp | styZpx
  | styAbs =>
    exact hP.of_writeInstr h hs
  | aslZp | aslZpx | aslAbs | aslAbsx | lsrZp | lsrZpx | lsrAbs | lsrAbsx | rolZp | rolZpx | rolAbs | rolAbsx | rorZp
  | rorZpx | rorAbs | rorAbsx | incZp | incZpx | incAbs | incAbsx | decZp | decZpx | decAbs | decAbsx =>
    exact hP.of_modifyInstr h hs
  | aslAcc | lsrAcc | rolAcc | rorAcc => exact hP.of_accumulatorInstr h hs
  | bcc | bcs | beq | bne | bmi | bpl | bvc | bvs => exact hP.of_branchInstr h hs
  | tax | tay | txa | tya | tsx | txs | inx | iny | dex | dey | clc | sec | cli | sei | cld | sed | clv =>
    exact hP.of_impliedInstr h hs fun hs => hP.cpu hs rfl
  | nop => exact hP.of_impliedInstr h hs id
  | pha | php => exact hP.of_impliedInstr h hs (hP.push _)
  | pla | plp => exact hP.of_impliedInstr h hs fun hs => hP.cpu (hP.pull hs) rfl
  | rts => exact hP.of_impliedInstr h hs fun hs => hP.setPc _ (hP.pullWord hs)
  | rti => exact hP.of_impliedInstr h hs fun hs => hP.setPc _ (hP.pullWord (hP.setP _ (hP.pull hs)))
  | brk => exact hP.of_impliedInstr h hs (hP.enterHandler _ true irqVector)
  | jmpAbs => cases h; exact hP.cpu hs rfl
  | jmpInd => cases h; exact hP.retire _ (hP.setPc _ (hP.readPair _ _ (hP.skip 3 hs)))
  | jsr => cases h; exact hP.retire _ (hP.setPc _ (hP.pushWord _ (hP.skip 3 hs)))

theorem fetch (hP : KeptByAccesses P) (hs : P s) : P (fetchInstr s).st := by
  have h1 := hP.read s.cpu.pc hs
  unfold fetchInstr
  dsimp only
  split
  · exact h1
  · exact h1
  · exact hP.read _ h1
  · exact hP.read _ (hP.read _ h1)

/-- By the branches of R707. -/
theorem of_cpuTick (hP : KeptByAccesses P) (h : cpuTick s = .next t) (hs : P s) : P t := by
  obtain ⟨_, rfl⟩ | ⟨_, _, rfl⟩ | ⟨_, _, _, rfl⟩ | ⟨_, _, _, _, _, rfl⟩ | ⟨_, _, _, _, i, _, hexec⟩ := cpuTick_cases h
  · exact hP.cpu hs rfl
  · exact hP.cpu hs rfl
  · exact hP.retire 7 (hP.enterHandler _ false nmiVector (hP.setNmiPending false hs))
  · exact hP.retire 7 (hP.enterHandler _ false irqVector hs)
  · exact hP.of_exec i hexec (hP.fetch hs)

/-- A property that every access keeps is kept by every step (R410). -/
theorem of_step (hP : KeptByAccesses P) (h : step s = .next t) (hs : P s) : P t := by
  obtain ⟨_, rfl⟩ | ⟨_, htick⟩ := step_cases h
  · exact hP.dot hs
  · exact hP.of_cpuTick htick (hP.dot hs)

end KeptByAccesses

end Sys2Proof.Proofs
end

section
/-! Program storage (spec/47_cartridge_mapper.md R482, R500, R503, R505): what the bank registers show, and that nothing
writes it. -/

namespace Sys2Proof.Proofs

open Sys2Proof Sys2Proof.Machine Sys2Proof.Safety Sys2Proof.Claims Sys2Proof.Laws

/-- Program storage and the number of its banks are those of `c`. -/
def HoldsProgramOf (c : Cartridge) (s : State) : Prop := s.cart.prg = c.prg ∧ s.cart.prgBanks = c.prgBanks

theorem holdsProgramOf_kept (c : Cartridge) : KeptByAccesses (HoldsProgramOf c) where
  dot h := h
  cpu h ht := by rw [ht]; exact h
  read a s h := by rwa [HoldsProgramOf, (rd_keeps a s).cart]
  write a v s h := ⟨(wr_prg a v s).1.trans h.1, (wr_prg a v s).2.1.trans h.2⟩

/-- The PPU bus writes graphics storage, nametables and palette alone (R103, R482, R505). -/
theorem ppuBusWrite_prg (a : Word) (v : Byte) (s : State) : (ppuBusWrite a v s).cart.prg = s.cart.prg := by
  rw [ppuBusWrite, busWrite_ppu]
  split
  · rfl
  · split <;> rfl

/-- The graphics window of the PPU bus (R505). -/
theorem ppuBusWrite_chr {a : Word} (h : a.toNat < 0x2000) (v : Byte) (s : State) :
    ppuBusWrite a v s = { s with cart := { s.cart with chr := Mem.write s.cart.chr a.toNat v } } := by
  have haddr : (a.setWidth 14).toNat = a.toNat := by
    rw [BitVec.toNat_setWidth]
    omega
  rw [ppuBusWrite, busWrite_ppu, haddr, if_pos h]

/-- Settles O19: both buses' writes by region, and the step from its accesses. -/
theorem programStorageIsImmutable : Obligations.ProgramStorageIsImmutable := by
  refine ⟨fun a v s k => ⟨(wr_storeKeeps a v s).prg k, by rw [ppuBusWrite_prg]⟩, fun a v s h => ⟨_, wr_cart h v s⟩,
    fun a v s h => ppuBusWrite_chr h v s, fun s t h => ?_⟩
  obtain ⟨hprg, hbanks⟩ := (holdsProgramOf_kept s.cart).of_step h ⟨rfl, rfl⟩
  exact ⟨hbanks, fun k => by rw [hprg]⟩

/-- Settles O18: a read of program storage has no side effect, and the byte is the one the bank registers select. -/
theorem programReadMapping : Obligations.ProgramReadMapping := fun a s h => by
  rw [rd_storable (.inr h), peek_eq_programByte h]

end Sys2Proof.Proofs
end

section
/-! The mapper's serial protocol (spec/47_cartridge_mapper.md R486 to R494). -/

namespace Sys2Proof.Proofs

open Sys2Proof Sys2Proof.Machine Sys2Proof.Safety Sys2Proof.Claims Sys2Proof.Laws

/-- A shift of the register as a division, the bit at its top (R488). -/
theorem serialShift_eq : ∀ (sr : BitVec 5) (b : Bool),
    serialShift sr b = BitVec.ofNat 5 (sr.toNat / 2 + 16 * b.toNat) := by
  decide

/-- The shift register after the data byte `v`, in arithmetic. -/
def shiftedIn (sr : BitVec 5) (v : Byte) : BitVec 5 := BitVec.ofNat 5 (sr.toNat / 2 + 16 * (v.toNat % 2))

theorem serialShift_eq_shiftedIn (sr : BitVec 5) (v : Byte) : serialShift sr (v.getLsbD 0) = shiftedIn sr v := by
  have hbit : (v.getLsbD 0).toNat = v.toNat % 2 := by rw [BitVec.getLsbD, Nat.toNat_testBit, pow_zero, Nat.div_one]
  rw [serialShift_eq, hbit, shiftedIn]

/-- Five shifts push out what the register held, so the value is the one the five low bits spell (R488, R489). -/
theorem shiftedIn_five (sr : BitVec 5) (v0 v1 v2 v3 v4 : Byte) :
    shiftedIn (shiftedIn (shiftedIn (shiftedIn (shiftedIn sr v0) v1) v2) v3) v4 =
      BitVec.ofNat 5
        (v0.toNat % 2 + 2 * (v1.toNat % 2) + 4 * (v2.toNat % 2) + 8 * (v3.toNat % 2) + 16 * (v4.toNat % 2)) := by
  have hsr := sr.isLt
  apply BitVec.eq_of_toNat_eq
  simp only [shiftedIn, BitVec.toNat_ofNat]
  omega

/-- `s` with shift register `sr` and write counter `wc`. -/
def withSerial (sr : BitVec 5) (wc : Nat) (s : State) : State := { s with mp := { s.mp with sr := sr, wc := wc } }

/-- A data write before the fifth shifts its low bit in and counts one (R488). -/
theorem wr_withSerial_shifts {a : Word} (ha : 0x8000 ≤ a.toNat) {v : Byte} (hv : v.getLsbD 7 = false) {wc : Nat}
    (hwc : wc < 4) (sr : BitVec 5) (s : State) :
    wr a v (withSerial sr wc s) = withSerial (shiftedIn sr v) (wc + 1) s := by
  have hnot : ¬ wc + 1 = 5 := by omega
  rw [wr_cart ha, mapperWrite, hv, mapperDataWrite, serialShift_eq_shiftedIn]
  exact congrArg (fun m : Mapper => { s with mp := m }) (if_neg hnot)

/-- What a commit of `val` by the fifth address `a` writes (R489 to R493). -/
def committed (banks : Nat) (a : Word) (val : BitVec 5) (m : Mapper) : Mapper :=
  if a.toNat < 0xA000 then { m with ctrl := val }
  else if a.toNat < 0xC000 then
    if m.ctrl.getLsbD 4 then { m with chrFirst := val }
    else { m with chrMerged := BitVec.ofNat 4 (val.toNat / 2) }
  else if a.toNat < 0xE000 then { m with chrSecond := val }
  else if m.ctrl.getLsbD 3 = false then { m with prgMerged := BitVec.ofNat 4 (val.toNat / 2) }
  else if m.ctrl.getLsbD 2 = false then { m with prgFirst := 0, prgSecond := val.toNat }
  else { m with prgFirst := val, prgSecond := banks - 1 }

/-- The number of a merged bank: the value without its low bit (R491, R493). -/
theorem mergedBank_eq (val : BitVec 5) : (val >>> 1).setWidth 4 = BitVec.ofNat 4 (val.toNat / 2) := by
  apply BitVec.eq_of_toNat_eq
  simp [Nat.shiftRight_one]

theorem commitChr_eq (val : BitVec 5) (m : Mapper) :
    commitChr val m =
      if m.ctrl.getLsbD 4 then { m with chrFirst := val }
      else { m with chrMerged := BitVec.ofNat 4 (val.toNat / 2) } := by
  rw [commitChr, mergedBank_eq, chrMode]

/-- `prg_mode` by its two bits (R484). -/
theorem bits_three_two : ∀ ctrl : BitVec 5,
    (ctrl.extractLsb' 2 2).toNat = 2 * (ctrl.getLsbD 3).toNat + (ctrl.getLsbD 2).toNat := by
  decide

/-- The four layouts, by bits 3 and 2 of the control register (R484, R493). -/
theorem commitPrg_eq (banks : Nat) (val : BitVec 5) (m : Mapper) :
    commitPrg banks val m =
      if m.ctrl.getLsbD 3 = false then { m with prgMerged := BitVec.ofNat 4 (val.toNat / 2) }
      else if m.ctrl.getLsbD 2 = false then { m with prgFirst := 0, prgSecond := val.toNat }
      else { m with prgFirst := val, prgSecond := banks - 1 } := by
  rw [commitPrg, prgMode, bits_three_two, mergedBank_eq]
  cases m.ctrl.getLsbD 3 <;> cases m.ctrl.getLsbD 2 <;> rfl

/-- The register a fifth write selects: bits 14 and 13 of its address (R489). -/
theorem register_toNat (a : Word) : (a.extractLsb' 13 2).toNat = a.toNat / 8192 % 4 := by
  simp [Nat.shiftRight_eq_div_pow]

/-- The four commits, by the ranges of the fifth address (R489 to R493). -/
theorem mapperCommit_eq {a : Word} (ha : 0x8000 ≤ a.toNat) (banks : Nat) (val : BitVec 5) (m : Mapper) :
    mapperCommit banks (a.extractLsb' 13 2) val m = committed banks a val m := by
  have hlt := a.isLt
  rw [mapperCommit, committed, register_toNat, commitChr_eq, commitPrg_eq]
  split
  · rw [if_pos (show a.toNat < 0xA000 by omega)]
  · rw [if_neg (show ¬ a.toNat < 0xA000 by omega), if_pos (show a.toNat < 0xC000 by omega)]
  · rw [if_neg (show ¬ a.toNat < 0xA000 by omega), if_neg (show ¬ a.toNat < 0xC000 by omega),
      if_pos (show a.toNat < 0xE000 by omega)]
  · next h0 h1 h2 =>
    simp only [imp_false] at h0 h1 h2
    rw [if_neg (show ¬ a.toNat < 0xA000 by omega), if_neg (show ¬ a.toNat < 0xC000 by omega),
      if_neg (show ¬ a.toNat < 0xE000 by omega)]

/-- The shift register and the counter take no part in a commit (R494). -/
theorem committed_serial (banks : Nat) (a : Word) (val : BitVec 5) (m : Mapper) (sr : BitVec 5) (wc : Nat) :
    { committed banks a val { m with sr := sr, wc := wc } with sr := 0b10000, wc := 0 } =
      { committed banks a val m with sr := 0b10000, wc := 0 } := by
  simp only [committed, apply_ite (fun m : Mapper => { m with sr := 0b10000, wc := 0 })]

/-- The fifth data write commits and re-arms (R489, R494). -/
theorem wr_withSerial_commits {a : Word} (ha : 0x8000 ≤ a.toNat) {v : Byte} (hv : v.getLsbD 7 = false)
    (sr : BitVec 5) (s : State) :
    wr a v (withSerial sr 4 s) =
      { s with mp := { committed s.cart.prgBanks a (shiftedIn sr v) s.mp with sr := 0b10000, wc := 0 } } := by
  rw [wr_cart ha, mapperWrite, hv, mapperDataWrite, serialShift_eq_shiftedIn, mapperCommit_eq ha]
  exact congrArg (fun m : Mapper => { s with mp := m }) (committed_serial _ a _ s.mp sr 4)

/-- A write with bit 7 set (R487). -/
theorem wr_cart_resets {a : Word} (ha : 0x8000 ≤ a.toNat) {v : Byte} (hv : v.getLsbD 7 = true) (s : State) :
    wr a v s = { s with mp := { s.mp with sr := 0b10000, wc := 0, ctrl := 0x0C } } := by
  rw [wr_cart ha, mapperWrite, if_pos hv]
  rfl

/-- Five data writes from a counter of 0 (R488, R489, R494). -/
theorem fiveWrites_commit {a : Fin 5 → Word} (ha : ∀ j, 0x8000 ≤ (a j).toNat) {v : Fin 5 → Byte}
    (hv : ∀ j, (v j).getLsbD 7 = false) (sr : BitVec 5) (s : State) :
    fiveWrites a v (withSerial sr 0 s) =
      { s with
        mp :=
          { committed s.cart.prgBanks (a 4)
              (BitVec.ofNat 5
                ((v 0).toNat % 2 + 2 * ((v 1).toNat % 2) + 4 * ((v 2).toNat % 2) + 8 * ((v 3).toNat % 2)
                  + 16 * ((v 4).toNat % 2))) s.mp with
            sr := 0b10000, wc := 0 } } := by
  rw [fiveWrites, wr_withSerial_shifts (ha 0) (hv 0) (by decide), wr_withSerial_shifts (ha 1) (hv 1) (by decide),
    wr_withSerial_shifts (ha 2) (hv 2) (by decide), wr_withSerial_shifts (ha 3) (hv 3) (by decide),
    wr_withSerial_commits (ha 4) (hv 4), shiftedIn_five]

/-- Settles O24: four shifts and a commit, a shift, and a reset write. -/
theorem mapperSerialProtocol : Obligations.MapperSerialProtocol := by
  refine ⟨fun a v s hwc ha hv => ?_, fun a v s ha hv hwc => wr_withSerial_shifts ha hv hwc s.mp.sr s,
    fun a v s ha hv => wr_cart_resets ha hv s⟩
  have hs : s = withSerial s.mp.sr 0 s := by rw [← hwc]; rfl
  have hfive := fiveWrites_commit ha hv s.mp.sr s
  rw [← hs] at hfive
  exact hfive

end Sys2Proof.Proofs
end

section
/-! Construction and machine reset (spec/47_cartridge_mapper.md R480, R481; spec/70_reset_and_hazards.md R750, R751). -/

namespace Sys2Proof.Proofs

open Sys2Proof Sys2Proof.Machine Sys2Proof.Safety Sys2Proof.Claims Sys2Proof.Laws

/-- A machine reset: the vector is read in the last bank, and every field but work RAM, the cartridge and `draws` takes
its reset value (R750, R402, R502). -/
theorem machineReset_eq (s : State) :
    machineReset s =
      { s with
        cpu := Cpu.reset
          (pair (Mem.read s.cart.prg (prgIndex s.cart.prgBanks (Mapper.reset s.cart.prgBanks) (resetVector + 1)))
            (Mem.read s.cart.prg (prgIndex s.cart.prgBanks (Mapper.reset s.cart.prgBanks) resetVector)))
        cpuDiv := 0
        ctrlShift := 0
        hc := HostCall.reset
        mp := Mapper.reset s.cart.prgBanks
        ppu := Ppu.reset
        apu := Apu.reset } := by
  rw [machineReset, cpuReset, rd16_storable (by decide) (by decide), peek_cart (by decide), peek_cart (by decide)]

/-- A second reset changes nothing. -/
theorem machineReset_idempotent (s : State) : machineReset (machineReset s) = machineReset s := by
  simp only [machineReset_eq]

/-- Storages with legal sizes, reset, are a legal machine (R33, R46). -/
theorem machineReset_legal {s : State} (hcart : CartridgeLegal s.cart) (hram : Mem.wf s.ram = true)
    (hramSize : Mem.below 2048 s.ram = true) (hprg : Mem.wf s.cart.prg = true)
    (hprgSize : Mem.below (s.cart.prgBanks * 16384) s.cart.prg = true) (hchr : Mem.wf s.cart.chr = true)
    (hchrSize : Mem.below s.cart.chrSize s.cart.chr = true) : Legal (machineReset s) := by
  rw [machineReset_eq]
  exact
    { storages := ⟨(memory_wf_iff _).2 ⟨hram, hprg, hchr, rfl, rfl, rfl⟩, hramSize, hprgSize, hchrSize, rfl, rfl, rfl⟩
      cart := hcart
      cpu := cpuLegal_reset _
      divider := Nat.zero_le 2
      bridge := bridgeReset_legal
      mapper := mapperLegal_reset hcart.banks
      ppu := ppuLegal_reset
      apu := apuReset_legal }

theorem buildCartridge_of_empty {c : Cartridge} (h : c.chrSize = 0) :
    buildCartridge c = cartridgeOfPrg c.prgBanks c.prg := if_pos h

theorem buildCartridge_of_nonempty {c : Cartridge} (h : c.chrSize ≠ 0) : buildCartridge c = c := if_neg h

/-- Either way the program data is the loader's (R480). -/
theorem buildCartridge_prg (c : Cartridge) :
    (buildCartridge c).prg = c.prg ∧ (buildCartridge c).prgBanks = c.prgBanks := by
  by_cases h : c.chrSize = 0
  · rw [buildCartridge_of_empty h]
    exact ⟨rfl, rfl⟩
  · rw [buildCartridge_of_nonempty h]
    exact ⟨rfl, rfl⟩

/-- The machine that construction resets (R751). -/
def constructed (c : Cartridge) (ramInit : Mem) : State := { State.reset with cart := buildCartridge c, ram := ramInit }

/-- Valid buffers give a legal machine, with graphics data or without (R480, R751). -/
theorem machineReset_constructed_legal {c : Cartridge} (hvalid : cartridgeValid c = true) {ramInit : Mem}
    (hram : Mem.wf ramInit = true) (hramSize : Mem.below 2048 ramInit = true) :
    Legal (machineReset (constructed c ramInit)) := by
  simp only [cartridgeValid, Bool.and_eq_true, decide_eq_true_eq, beq_iff_eq, and_assoc] at hvalid
  obtain ⟨hbanks, hmultiple, hprg, hprgSize, hchr, hchrSize⟩ := hvalid
  rw [constructed]
  by_cases h : c.chrSize = 0
  · rw [buildCartridge_of_empty h]
    have hcart : CartridgeLegal (cartridgeOfPrg c.prgBanks c.prg) :=
      ⟨hbanks, (by decide : 0 < 16384), (by decide : 16384 % 8192 = 0)⟩
    exact machineReset_legal hcart hram hramSize hprg hprgSize rfl rfl
  · rw [buildCartridge_of_nonempty h]
    exact machineReset_legal ⟨hbanks, Nat.pos_of_ne_zero h, hmultiple⟩ hram hramSize hprg hprgSize hchr hchrSize

/-- A reset keeps work RAM and the cartridge (R750). -/
theorem machineReset_constructed_storages (c : Cartridge) (ramInit : Mem) :
    (machineReset (constructed c ramInit)).ram = ramInit ∧
      (machineReset (constructed c ramInit)).cart = buildCartridge c := by
  rw [machineReset_eq]
  exact ⟨rfl, rfl⟩

/-- The supported identifier: by the buffers' check (R751; n26). -/
theorem machineNew_one (c : Cartridge) (ramInit : Mem) :
    machineNew 1 c ramInit =
      if cartridgeValid c = true ∧ Mem.wf ramInit = true ∧ Mem.below 2048 ramInit = true then
        .next (machineReset (constructed c ramInit))
      else .refused .invalidCartridge := by
  rw [machineNew, if_neg (by decide), constructed]
  simp only [Bool.and_eq_true, and_assoc]

/-- Settles O15: the identifier, then the buffers' check, then the graphics data. -/
theorem machineConstruction : Obligations.MachineConstruction := by
  intro mapper c ramInit
  refine ⟨fun h => if_pos h, ?_, ?_⟩
  · rintro rfl hvalid hram hramSize
    obtain ⟨htram, htcart⟩ := machineReset_constructed_storages c ramInit
    obtain ⟨hprg, hbanks⟩ := buildCartridge_prg c
    refine ⟨machineReset (constructed c ramInit), ?_, (machineReset_idempotent _).symm,
      machineReset_constructed_legal hvalid hram hramSize, htram, ?_⟩
    · rw [machineNew_one, if_pos ⟨hvalid, hram, hramSize⟩]
    · rw [htcart]
      refine ⟨hbanks, hprg, fun h => ?_, fun h => ?_⟩
      · rw [buildCartridge_of_nonempty h]
        exact ⟨rfl, rfl⟩
      · rw [buildCartridge_of_empty h]
        exact ⟨rfl, mem_read_nil⟩
  · rintro rfl hinvalid
    rw [machineNew_one, if_neg hinvalid]

end Sys2Proof.Proofs
end

section
/-! The PPU's register interface (spec/48_ppu.md R520 to R534) and the sprite DMA. -/

namespace Sys2Proof.Proofs

open Sys2Proof Sys2Proof.Machine Sys2Proof.Safety Sys2Proof.Claims Sys2Proof.Laws

/-- The first mirror of PPU register number `n`. -/
def firstMirror (n : Nat) : Word := 0x2000 + BitVec.ofNat 16 n

theorem firstMirror_toNat {n : Nat} {a : Word} (h : ppuPort n a) : (firstMirror n).toNat = 0x2000 + a.toNat % 8 := by
  obtain ⟨-, -, rfl⟩ := h
  rw [firstMirror, BitVec.toNat_add, BitVec.toNat_ofNat, show (0x2000 : Word).toNat = 0x2000 from rfl]
  omega

/-- Every mirror of a PPU register is written as the first one is (R520). -/
theorem wr_ppuPort {n : Nat} {a : Word} (h : ppuPort n a) (v : Byte) (s : State) :
    wr a v s = (ppuPortWrite (firstMirror n) v s).getD s := by
  obtain ⟨hlow, hhigh, -⟩ := id h
  rw [wr_ppu hlow hhigh, ppuPortWrite, ppuPortWrite, firstMirror_toNat h, if_neg (by omega), if_neg (by omega),
    Nat.add_mod, Nat.mod_mod, show 0x2000 % 8 = 0 from rfl, Nat.zero_add, Nat.mod_mod]

/-- Every mirror of a PPU register is read as the first one is (R520). -/
theorem rd_ppuPort {n : Nat} {a : Word} (h : ppuPort n a) (s : State) :
    rd a s = (ppuPortRead (firstMirror n) s).getD (busDefault, s) := by
  obtain ⟨hlow, hhigh, -⟩ := id h
  rw [rd_ppu hlow hhigh, ppuPortRead, ppuPortRead, firstMirror_toNat h, if_neg (by omega), if_neg (by omega),
    Nat.add_mod, Nat.mod_mod, show 0x2000 % 8 = 0 from rfl, Nat.zero_add, Nat.mod_mod]

/-- Settles O25: the registers' writes and the status read, by region and number. -/
theorem ppuControlMaskStatus : Obligations.PpuControlMaskStatus := fun _ v s =>
  ⟨fun h => wr_ppuPort h v s, fun h => wr_ppuPort h v s, fun h => ⟨rd_ppuPort h s, wr_ppuPort h v s⟩⟩

/-- Settles O26: the OAM ports by region and number, and the one byte a data write stores. -/
theorem ppuOamPort : Obligations.PpuOamPort := by
  intro a v s
  refine ⟨fun h => wr_ppuPort h v s, fun h => ?_⟩
  have hnext : s.ppu.oamaddr + 1 = BitVec.ofNat 8 (s.ppu.oamaddr.toNat + 1) := by
    rw [BitVec.ofNat_add, BitVec.ofNat_toNat, BitVec.setWidth_eq]; rfl
  have hwr : wr a v s = writeOamData v s := wr_ppuPort h v s
  rw [hwr, writeOamData, hnext]
  exact ⟨rd_ppuPort h s, rfl, fun hwf => mem_read_write_eq hwf _ v, fun k hk => mem_read_write_ne hk _ v⟩

/-- The address port's high byte (R529). -/
theorem pair_lo_eq (v : Byte) (w : Word) : pair v (lo w) = BitVec.ofNat 16 (v.toNat * 256 + w.toNat % 256) := by
  rw [← lo_toNat, ← pair_toNat, BitVec.ofNat_toNat, BitVec.setWidth_eq]

/-- The address port's low byte (R529). -/
theorem pair_hi_eq (v : Byte) (w : Word) : pair (hi w) v = BitVec.ofNat 16 (w.toNat / 256 * 256 + v.toNat) := by
  rw [← hi_toNat, ← pair_toNat, BitVec.ofNat_toNat, BitVec.setWidth_eq]

/-- Settles O27: the toggle decides which half a write takes. -/
theorem ppuScrollAndAddress : Obligations.PpuScrollAndAddress := by
  intro a v s
  have hscroll (h : ppuPort 5 a) : wr a v s = { s with ppu := writeScroll v s.ppu } := wr_ppuPort h v s
  have haddr (h : ppuPort 6 a) : wr a v s = { s with ppu := writeAddr v s.ppu } := wr_ppuPort h v s
  refine ⟨fun h hw => ?_, fun h hw => ?_, fun h hw => ?_, fun h hw => ?_⟩
  · rw [hscroll h, writeScroll, hw]; rfl
  · rw [hscroll h, writeScroll, hw]; rfl
  · rw [haddr h, writeAddr, hw, ← pair_lo_eq]; rfl
  · rw [haddr h, writeAddr, hw, ← pair_hi_eq]; rfl

/-- The latched address after a data-port access, in arithmetic (R532). -/
theorem addr_add_inc (p : Ppu) :
    p.addr + ppuInc p = BitVec.ofNat 16 (p.addr.toNat + (if p.ctrl.getLsbD 2 then 32 else 1)) := by
  rw [BitVec.ofNat_add, BitVec.ofNat_toNat, BitVec.setWidth_eq, ppuInc, apply_ite (BitVec.ofNat 16)]
  rfl

/-- Settles O28: the PPU bus by region, then the latched address moves on. -/
theorem ppuDataPort : Obligations.PpuDataPort := by
  intro a v s h p next
  have hnext : s.ppu.addr + ppuInc s.ppu = next := addr_add_inc s.ppu
  have hread : rd a s = ((ppuBusRead s.ppu.addr s).1, { s with ppu := { s.ppu with addr := next } }) := by
    have hdata : rd a s = readData s := rd_ppuPort h s
    rw [hdata, readData, ppuBusRead_state, stepPpuAddr, hnext]
  have hwrite : wr a v s = stepPpuAddr (busWrite ppuWriters p v s).2 := wr_ppuPort h v s
  have hbyte : (rd a s).1 = (busRead ppuReaders p s).2.1 := by rw [hread]; rfl
  rw [hbyte, hwrite, busRead_ppu, busWrite_ppu]
  refine ⟨by rw [hread], fun h1 => ?_, fun h1 h2 => ?_, fun h1 => ?_⟩
  · simp only [h1, if_true, stepPpuAddr, ← hnext]
    exact ⟨trivial, trivial⟩
  · simp only [Nat.not_lt.mpr h1, h2, if_true, if_false, stepPpuAddr, ← hnext]
    exact ⟨trivial, rfl⟩
  · simp only [show ¬ p.toNat < 0x2000 by omega, Nat.not_lt.mpr h1, if_false, stepPpuAddr, ← hnext]
    exact ⟨trivial, rfl⟩

/-- The DMA copy leaves the OAM address (R534). -/
theorem dmaKeeps_oamaddr {s t : State} (h : DmaKeeps s t) : t.ppu.oamaddr = s.ppu.oamaddr := by rw [h.ppu]

/-- The copy up to byte `n` is the fold of the DMA's steps: no step moves the OAM address (R534). -/
theorem foldl_oamDmaByte_eq_copied (page : Byte) (n : Nat) (s : State) :
    (List.range n).foldl (oamDmaByte page) s = copied page n s := by
  induction n with
  | zero => rfl
  | succ n ih =>
    have hkeeps : DmaKeeps s (copied page n s) :=
      ih ▸ foldl_keeps dmaKeeps_refl dmaKeeps_trans (oamDmaByte_keeps page) _ s
    have hread := rd_keeps (pair page (BitVec.ofNat 8 n)) (copied page n s)
    have haddr : (rd (pair page (BitVec.ofNat 8 n)) (copied page n s)).2.ppu.oamaddr = s.ppu.oamaddr := by
      rw [hread.ppu]
      exact dmaKeeps_oamaddr hkeeps
    rw [List.range_succ, List.foldl_append, ih, List.foldl_cons, List.foldl_nil, oamDmaByte, haddr]
    rfl

theorem oamDma_eq_copied (page : Byte) (s : State) : oamDma page s = copied page 256 s :=
  foldl_oamDmaByte_eq_copied page 256 s

/-- A write to the DMA port: the copy, and a stall (R406, R534). -/
theorem wr_dmaPort_eq (page : Byte) (s : State) :
    wr dmaPort page s =
      { copied page 256 s with
        cpu := { s.cpu with halt := dmaStall (copied page 256 s).draws }, draws := (copied page 256 s).draws + 1 } := by
  have hcpu : (copied page 256 s).cpu = s.cpu := oamDma_eq_copied page s ▸ (oamDma_keeps page s).cpu
  rw [wr_dma, oamDma_eq_copied, haltCpu, hcpu]

/-- The address of byte `n` of a page of work RAM. -/
theorem rd_ramPage {page : Byte} (hpage : page.toNat ≤ 0x1F) {n : Nat} (hn : n < 256) (s : State) :
    rd (page ++ BitVec.ofNat 8 n) s = (Mem.read s.ram ((page.toNat * 256 + n) % 2048), s) := by
  have haddr : (pair page (BitVec.ofNat 8 n)).toNat = page.toNat * 256 + n := by
    rw [pair_toNat, BitVec.toNat_ofNat, Nat.mod_eq_of_lt hn]
  have h := rd_ram (a := pair page (BitVec.ofNat 8 n)) (by omega) s
  rwa [ramIndex, haddr] at h

/-- From a page of work RAM, byte `n` is the only thing that changes (R534). -/
theorem copied_succ_of_ramPage {page : Byte} (hpage : page.toNat ≤ 0x1F) {n : Nat} (hn : n < 256) (s : State) :
    copied page (n + 1) s =
      { copied page n s with
        ppu :=
          { (copied page n s).ppu with
            oam := Mem.write (copied page n s).ppu.oam ((s.ppu.oamaddr.toNat + n) % 256)
              (Mem.read (copied page n s).ram ((page.toNat * 256 + n) % 2048)) } } := by
  rw [copied, rd_ramPage hpage hn]

theorem copied_frame_of_ramPage {page : Byte} (hpage : page.toNat ≤ 0x1F) {n : Nat} (hn : n ≤ 256) (s : State) :
    { copied page n s with ppu := { (copied page n s).ppu with oam := s.ppu.oam } } = s := by
  induction n with
  | zero => rfl
  | succ n ih =>
    rw [copied_succ_of_ramPage hpage hn]
    exact ih (by omega)

/-- After `n` bytes OAM is canonical and holds them: a later byte goes to another place (R534). -/
theorem copied_oam_of_ramPage {page : Byte} (hpage : page.toNat ≤ 0x1F) {s : State} (hwf : Mem.wf s.ppu.oam = true)
    {n : Nat} (hn : n ≤ 256) :
    Mem.wf (copied page n s).ppu.oam = true ∧
      ∀ k, k < n →
        Mem.read (copied page n s).ppu.oam ((s.ppu.oamaddr.toNat + k) % 256) =
          Mem.read s.ram ((page.toNat * 256 + k) % 2048) := by
  induction n with
  | zero => exact ⟨hwf, fun k hk => absurd hk (Nat.not_lt_zero k)⟩
  | succ n ih =>
    obtain ⟨hcanonical, hbytes⟩ := ih (by omega)
    have hframe := copied_frame_of_ramPage hpage (show n ≤ 256 by omega) s
    have hram : (copied page n s).ram = s.ram := by rw [← congrArg State.ram hframe]
    rw [copied_succ_of_ramPage hpage hn, hram]
    refine ⟨mem_wf_write hcanonical _ _, fun k hk => ?_⟩
    by_cases hkn : k = n
    · rw [hkn]
      exact mem_read_write_eq hcanonical _ _
    · have hplace : (s.ppu.oamaddr.toNat + k) % 256 ≠ (s.ppu.oamaddr.toNat + n) % 256 := by omega
      exact (mem_read_write_ne hplace _ _).trans (hbytes k (by omega))

theorem dmaStall_eq (k : Nat) : dmaStall k = 513 ∨ dmaStall k = 514 := by
  rw [dmaStall]
  split
  · exact .inr rfl
  · exact .inl rfl

/-- Settles O30: the copy as a fold; from work RAM each step is one byte stored. -/
theorem spriteDma : Obligations.SpriteDma := by
  intro page s t
  have ht : t = _ := wr_dmaPort_eq page s
  have haddr : (copied page 256 s).ppu.oamaddr = s.ppu.oamaddr :=
    oamDma_eq_copied page s ▸ dmaKeeps_oamaddr (oamDma_keeps page s)
  rw [ht]
  exact ⟨dmaStall_eq _, rfl, haddr, fun hpage hwf =>
    ⟨congrArg (fun u : State => { u with cpu := s.cpu, draws := s.draws })
      (copied_frame_of_ramPage hpage (le_refl 256) s),
      (copied_oam_of_ramPage hpage hwf (le_refl 256)).2⟩⟩

end Sys2Proof.Proofs
end

section
/-! The PPU's timing engine (spec/48_ppu.md R540 to R551): the events of a position, the advance to the next one, and
the length of a frame. -/

namespace Sys2Proof.Proofs

open Sys2Proof Sys2Proof.Machine Sys2Proof.Safety Sys2Proof.Claims Sys2Proof.Laws

/-- The advance moves the position and nothing else (R548). -/
theorem ppuAdvance_eq (p : Ppu) :
    ppuAdvance p =
      { p with dot := (ppuAdvance p).dot, scanline := (ppuAdvance p).scanline, frame := (ppuAdvance p).frame } := by
  unfold ppuAdvance
  split
  · split <;> rfl
  · rfl

theorem vblankDue_iff (p : Ppu) : vblankDue p = true ↔ p.scanline = 241 ∧ p.dot = 1 := by
  simp [vblankDue]

/-- The status register's three events fall on different positions: a hit line is a visible one (R541, R543, R545). -/
theorem statusEvents_eq (p : Ppu) :
    statusEvents p =
      if p.scanline = 261 ∧ p.dot = 1 then p.status &&& 0x3F
      else if p.scanline = spr0HitScanline ∧ p.dot = spr0HitDot then p.status ||| 0x40
      else if p.scanline = 241 ∧ p.dot = 1 then p.status ||| 0x80
      else p.status := by
  have hline : spr0HitScanline < 240 := Config.spr0Scanline.isLt
  simp only [statusEvents, vblankDue_iff]
  by_cases hclear : p.scanline = 261 ∧ p.dot = 1
  · rw [if_pos hclear, if_pos hclear, if_neg (by omega), if_neg (by omega)]
  · rw [if_neg hclear, if_neg hclear]
    by_cases hhit : p.scanline = spr0HitScanline ∧ p.dot = spr0HitDot
    · have hvisible : p.scanline ≤ 239 := by omega
      rw [if_pos hhit, if_pos (⟨hvisible, hhit⟩ : _ ∧ _), if_neg (by omega)]
    · have hnone : ¬ (p.scanline ≤ 239 ∧ p.scanline = spr0HitScanline ∧ p.dot = spr0HitDot) := fun h => hhit h.2
      rw [if_neg hhit, if_neg hnone]

theorem oamaddrEvents_eq (p : Ppu) :
    oamaddrEvents p =
      if (p.scanline = 261 ∧ (p.dot = 257 ∨ p.dot = 320)) ∨ (p.scanline ≤ 239 ∧ p.dot = 257) then 0x00
      else p.oamaddr := by
  rw [oamaddrEvents, ite_or]

/-- Settles O31: the events of the position, field by field; the advance changes none of these fields. -/
theorem ppuTickEvents : Obligations.PpuTickEvents := by
  intro s p t
  have ht : t.ppu = _ := ppuAdvance_eq (ppuEvents p)
  rw [ht]
  refine ⟨statusEvents_eq p, oamaddrEvents_eq p, ?_, ?_, rfl⟩
  · change (if vblankDue p = true then _ else _) = _
    simp only [vblankDue_iff]
  · change (s.cpu.nmiPending || (vblankDue p && p.ctrl.getLsbD 7)) = true ↔ _
    rw [Bool.or_eq_true, Bool.and_eq_true, vblankDue_iff, and_assoc]

/-- The next position: inside a line, at its end, and at the end of the frame (R548). -/
theorem ppuTick_nextDot {s : State} (h : s.ppu.dot + 1 ≠ lineWidth s.ppu) :
    (ppuTick s).ppu.dot = s.ppu.dot + 1 ∧ (ppuTick s).ppu.scanline = s.ppu.scanline ∧
      (ppuTick s).ppu.frame = s.ppu.frame := by
  have ht : (ppuTick s).ppu = _ := if_neg h
  rw [ht]
  exact ⟨rfl, rfl, rfl⟩

theorem ppuTick_nextLine {s : State} (hdot : s.ppu.dot + 1 = lineWidth s.ppu) (hline : s.ppu.scanline + 1 ≠ 262) :
    (ppuTick s).ppu.dot = 0 ∧ (ppuTick s).ppu.scanline = s.ppu.scanline + 1 ∧
      (ppuTick s).ppu.frame = s.ppu.frame := by
  have ht : (ppuTick s).ppu = _ := (if_pos hdot).trans (if_neg hline)
  rw [ht]
  exact ⟨rfl, rfl, rfl⟩

theorem ppuTick_nextFrame {s : State} (hdot : s.ppu.dot + 1 = lineWidth s.ppu) (hline : s.ppu.scanline + 1 = 262) :
    (ppuTick s).ppu.dot = 0 ∧ (ppuTick s).ppu.scanline = 0 ∧ (ppuTick s).ppu.frame = s.ppu.frame + 1 := by
  have ht : (ppuTick s).ppu = _ := (if_pos hdot).trans (if_pos hline)
  rw [ht]
  exact ⟨rfl, rfl, rfl⟩

/-- Settles O32: the three cases of the advance. -/
theorem ppuPositionAdvances : Obligations.PpuPositionAdvances := fun _ =>
  ⟨ppuTick_nextDot, ppuTick_nextLine, ppuTick_nextFrame⟩

/-- The PPU stands `k` ticks into frame `f`: every line but the last has 341 dots (R548, R551). -/
structure AtTick (f k : Nat) (s : State) : Prop where
  dot : s.ppu.dot = k % 341
  scanline : s.ppu.scanline = k / 341
  frame : s.ppu.frame = f

/-- The ticks of frame `f`: one less in an odd frame (R550, R551). -/
def frameTicks (f : Nat) : Nat := 89342 - f % 2

theorem frameTicks_eq (f : Nat) : frameTicks f = if f % 2 = 0 then 89342 else 89341 := by
  rw [frameTicks]
  split <;> omega

theorem lineWidth_cases (p : Ppu) :
    (p.scanline = 261 ∧ p.frame % 2 = 1) ∧ lineWidth p = 340 ∨
      ¬ (p.scanline = 261 ∧ p.frame % 2 = 1) ∧ lineWidth p = 341 := by
  unfold lineWidth
  split
  · next h => exact .inl ⟨h, rfl⟩
  · next h => exact .inr ⟨h, rfl⟩

/-- Before the last tick of the frame, a tick goes one position on. -/
theorem AtTick.next {f k : Nat} {s : State} (h : AtTick f k s) (hk : k + 1 < frameTicks f) :
    AtTick f (k + 1) (ppuTick s) := by
  obtain ⟨hdot, hline, hframe⟩ := h
  rw [frameTicks] at hk
  have hwidth := lineWidth_cases s.ppu
  by_cases hend : s.ppu.dot + 1 = lineWidth s.ppu
  · obtain ⟨h1, h2, h3⟩ := ppuTick_nextLine hend (by omega)
    exact ⟨by omega, by omega, by omega⟩
  · obtain ⟨h1, h2, h3⟩ := ppuTick_nextDot hend
    exact ⟨by omega, by omega, by omega⟩

/-- The last tick of the frame goes to the start of the next. -/
theorem AtTick.wrap {f k : Nat} {s : State} (h : AtTick f k s) (hk : k + 1 = frameTicks f) :
    AtTick (f + 1) 0 (ppuTick s) := by
  obtain ⟨hdot, hline, hframe⟩ := h
  rw [frameTicks] at hk
  have hwidth := lineWidth_cases s.ppu
  obtain ⟨h1, h2, h3⟩ := ppuTick_nextFrame (s := s) (by omega) (by omega)
  exact ⟨h1, h2, by omega⟩

theorem AtTick.ticks {f : Nat} {s : State} (h : AtTick f 0 s) {k : Nat} (hk : k < frameTicks f) :
    AtTick f k (times ppuTick k s) := by
  induction k with
  | zero => exact h
  | succ k ih =>
    rw [times_succ]
    exact (ih (by omega)).next hk

/-- A whole frame from its start leads to the start of the next (R551). -/
theorem AtTick.wholeFrame {f : Nat} {s : State} (h : AtTick f 0 s) :
    AtTick (f + 1) 0 (times ppuTick (frameTicks f) s) := by
  have hpos : frameTicks f - 1 + 1 = frameTicks f := by rw [frameTicks]; omega
  have hlast := (h.ticks (show frameTicks f - 1 < frameTicks f by omega)).wrap hpos
  rwa [← times_succ ppuTick, hpos] at hlast

/-- An even and an odd frame, in either order (R551). -/
theorem frameTicks_two (f : Nat) : frameTicks f + frameTicks (f + 1) = 178683 := by
  rw [frameTicks, frameTicks]
  omega

/-- Settles O33: a position is a tick's number within its frame, and only number 0 is (0, 0). -/
theorem frameLength : Obligations.FrameLength := by
  intro s hdot hline n
  have hstart : AtTick s.ppu.frame 0 s := ⟨hdot, hline, rfl⟩
  have hn : frameTicks s.ppu.frame = n := frameTicks_eq _
  have hone := hstart.wholeFrame
  have htwo := hone.wholeFrame
  rw [← times_add, frameTicks_two] at htwo
  rw [hn] at hone
  refine ⟨hone.dot, hone.scanline, hone.frame, fun k hpos hk hzero => ?_, htwo.frame, htwo.dot, htwo.scanline, rfl⟩
  obtain ⟨hd, hl, -⟩ := hstart.ticks (hn ▸ hk)
  omega

end Sys2Proof.Proofs
end

section
/-! The APU's register accesses (spec/49_apu.md R600, R601, R614 to R636). -/

namespace Sys2Proof.Proofs

open Sys2Proof Sys2Proof.Machine Sys2Proof.Safety Sys2Proof.Claims Sys2Proof.Laws

/-- An APU register's write on the bus: the audio producer's turn, then the register's effect (R600, R602; n6). -/
theorem wr_apuRegister {a : Word} {v : Byte} {f : Apu → Apu} (h : ∀ u, apuWrite a v u = some (f u)) (s : State) :
    wr a v s = { audioTurn s with apu := f (audioTurn s).apu } := by
  have hrange : 0x4000 ≤ a.toNat ∧ a.toNat ≤ 0x4013 ∨ a.toNat = 0x4015 ∨ a.toNat = 0x4017 := by
    by_contra hn
    have hnone := apuWrite_none (a := a) (by omega) (by omega) (by omega) v s.apu
    rw [h] at hnone
    contradiction
  rw [wr_apu (by omega) (by omega) (by omega) (by omega), apuPortWrite, h]
  simp only [h, Option.getD_some]

/-- An APU register's read on the bus: the audio producer's turn, then the register's value (R601, R602; n6). -/
theorem rd_apuRegister {a : Word} {f : Apu → Byte} (h : ∀ u, apuRead a u = some (f u)) (s : State) :
    rd a s = (f (audioTurn s).apu, audioTurn s) := by
  have hrange : 0x4010 ≤ a.toNat ∧ a.toNat ≤ 0x4013 ∨ a.toNat = 0x4015 := by
    by_contra hn
    have hnone := apuRead_none (a := a) (by omega) (by omega) s.apu
    rw [h] at hnone
    contradiction
  rw [rd_apu (by omega) (by omega), apuPortRead, h]
  simp only [h, Option.getD_some]

/-- A field of a register byte, by division. -/
theorem field_eq (v : Byte) (start len : Nat) : v.extractLsb' start len = BitVec.ofNat len (v.toNat / 2 ^ start) := by
  rw [BitVec.extractLsb', Nat.shiftRight_eq_div_pow]

/-- A field at the byte's low end, by remainder. -/
theorem lowField_eq (v : Byte) (len : Nat) : v.extractLsb' 0 len = BitVec.ofNat len (v.toNat % 2 ^ len) := by
  apply BitVec.eq_of_toNat_eq
  rw [field_eq, pow_zero, Nat.div_one, BitVec.toNat_ofNat, BitVec.toNat_ofNat, Nat.mod_mod]

/-- Three high bits and a low byte, bit by bit. -/
theorem timer_append_getLsbD (high : BitVec 3) (low : Byte) (i : Nat) :
    (high ++ low : BitVec 11).getLsbD i = if i < 8 then low.getLsbD i else high.getLsbD (i - 8) :=
  BitVec.getLsbD_append

/-- Three high bits and a low byte, as a number. -/
theorem timer_append_eq (high : BitVec 3) (low : Byte) :
    (high ++ low : BitVec 11) = BitVec.ofNat 11 (high.toNat * 256 + low.toNat) := by
  apply BitVec.eq_of_toNat_eq
  have hhigh := high.isLt
  have hlow := low.isLt
  rw [BitVec.toNat_append, ← Nat.shiftLeft_add_eq_or_of_lt (by omega), Nat.shiftLeft_eq, BitVec.toNat_ofNat]
  omega

/-- The timer's low byte replaced (R616, R620). -/
theorem timerLow_eq (t : BitVec 11) (v : Byte) :
    timerLow t v = BitVec.ofNat 11 (t.toNat / 256 * 256 + v.toNat) := by
  have hparts : timerLow t v = t.extractLsb' 8 3 ++ v := by
    refine BitVec.eq_of_getLsbD_eq fun i hi => ?_
    rw [timer_append_getLsbD]
    interval_cases i <;> simp [timerLow]
  have hhigh : (t.extractLsb' 8 3).toNat = t.toNat / 256 := by
    have ht := t.isLt
    simp [Nat.shiftRight_eq_div_pow]
    omega
  rw [hparts, timer_append_eq, hhigh]

/-- The timer's high bits replaced (R617, R621). -/
theorem timerHigh_eq (t : BitVec 11) (v : Byte) :
    timerHigh t v = BitVec.ofNat 11 (v.toNat % 8 * 256 + t.toNat % 256) := by
  have hparts : timerHigh t v = v.extractLsb' 0 3 ++ t.setWidth 8 := by
    refine BitVec.eq_of_getLsbD_eq fun i hi => ?_
    rw [timer_append_getLsbD]
    interval_cases i <;> simp [timerHigh]
  rw [hparts, timer_append_eq, lowField_eq, BitVec.toNat_ofNat, BitVec.toNat_setWidth, Nat.mod_mod]
  rfl

/-- The length a register byte selects (R628). -/
theorem lengthLoad_eq (v : Byte) : lengthLoad v = lenTable.getD (v.toNat / 8) 0 := by
  have hv := v.isLt
  rw [lengthLoad, field_eq, BitVec.toNat_ofNat, Nat.mod_eq_of_lt (by omega)]
  rfl

/-- The pulse channel's four writes (R614 to R617). -/
theorem pulseWrite_eq (ch : Pulse) (k : Fin 4) (v : Byte) : pulseWrite ch k v = pulseSet k v ch := by
  match k with
  | 0 => simp only [pulseWrite, field_eq v 6 2, lowField_eq]; rfl
  | 1 => rfl
  | 2 => simp only [pulseWrite, timerLow_eq]; rfl
  | 3 => simp only [pulseWrite, timerHigh_eq, lengthLoad_eq]; rfl

/-- The triangle channel's four writes (R618 to R621). -/
theorem triWrite_eq (ch : Triangle) (k : Fin 4) (v : Byte) : triWrite ch k v = triangleSet k v ch := by
  match k with
  | 0 => simp only [triWrite, lowField_eq]; rfl
  | 1 => rfl
  | 2 => simp only [triWrite, timerLow_eq]; rfl
  | 3 => simp only [triWrite, timerHigh_eq, lengthLoad_eq]; rfl

/-- The noise channel's four writes (R622 to R625). -/
theorem noiseWrite_eq (ch : Noise) (k : Fin 4) (v : Byte) : noiseWrite ch k v = noiseSet k v ch := by
  match k with
  | 0 => simp only [noiseWrite, lowField_eq]; rfl
  | 1 => rfl
  | 2 => simp only [noiseWrite, lowField_eq]; rfl
  | 3 => simp only [noiseWrite, lengthLoad_eq]; rfl

/-- Settles O34: each block of four registers is one channel's. -/
theorem pulseRegisterWrites : Obligations.PulseRegisterWrites := by
  intro k v s u
  rw [← pulseWrite_eq, ← pulseWrite_eq]
  exact ⟨wr_apuRegister (f := fun u => { u with p1 := pulseWrite u.p1 k v }) (fun _ => by fin_cases k <;> rfl) s,
    wr_apuRegister (f := fun u => { u with p2 := pulseWrite u.p2 k v }) (fun _ => by fin_cases k <;> rfl) s⟩

/-- Settles O35: each block of four registers is one channel's. -/
theorem triangleNoiseDmcWrites : Obligations.TriangleNoiseDmcWrites := by
  intro k v s u
  rw [← triWrite_eq, ← noiseWrite_eq]
  exact ⟨wr_apuRegister (f := fun u => { u with tri := triWrite u.tri k v }) (fun _ => by fin_cases k <;> rfl) s,
    wr_apuRegister (f := fun u => { u with noi := noiseWrite u.noi k v }) (fun _ => by fin_cases k <;> rfl) s,
    wr_apuRegister (f := fun u => { u with dmc := u.dmc.set k.val v k.isLt }) (fun _ => by fin_cases k <;> rfl) s⟩

/-- One bit of the status byte: set where its channel's length is above 0 (R632). -/
theorem getLsbD_lengthBit (l : BitVec 8) {j : Nat} (hj : j < 8) (k : Nat) :
    (if l = 0 then 0 else BitVec.twoPow 8 j : Byte).getLsbD k = (decide (k = j) && decide (0 < l.toNat)) := by
  have hzero : l = 0 ↔ ¬ 0 < l.toNat := by rw [← BitVec.toNat_inj]; simp
  split
  · next h => simp [hzero.mp h]
  · next h =>
    have hpos : 0 < l.toNat := not_not.mp fun hn => h (hzero.mpr hn)
    simp [hpos, hj, eq_comm]

/-- The four bits of a status read (R632). -/
theorem getLsbD_statusRead (u : Apu) (k : Nat) :
    (statusRead u).getLsbD k =
      if k = 0 then decide (0 < u.p1.length.toNat)
      else if k = 1 then decide (0 < u.p2.length.toNat)
      else if k = 2 then decide (0 < u.tri.length.toNat)
      else if k = 3 then decide (0 < u.noi.length.toNat)
      else false := by
  have hbits : statusRead u =
      (if u.p1.length = 0 then 0 else BitVec.twoPow 8 0) ||| (if u.p2.length = 0 then 0 else BitVec.twoPow 8 1)
        ||| (if u.tri.length = 0 then 0 else BitVec.twoPow 8 2)
        ||| (if u.noi.length = 0 then 0 else BitVec.twoPow 8 3) := rfl
  rw [hbits]
  simp only [BitVec.getLsbD_or, getLsbD_lengthBit _ (show 0 < 8 by decide), getLsbD_lengthBit _ (show 1 < 8 by decide),
    getLsbD_lengthBit _ (show 2 < 8 by decide), getLsbD_lengthBit _ (show 3 < 8 by decide)]
  match k with
  | 0 | 1 | 2 | 3 => simp
  | k + 4 => simp

/-- Settles O36: the status register's write and read, and the registers beside it. -/
theorem apuStatusPort : Obligations.ApuStatusPort := by
  intro v s u
  have hread : rd 0x4015 s = (statusRead u.apu, u) := rd_apuRegister (fun _ => rfl) s
  refine ⟨?_, by rw [hread], fun k => ?_, fun k => ?_, wr_apuRegister (f := id) (fun _ => rfl) s,
    rd_unmapped (by decide) (by decide) (not_hostcall (by decide)) s⟩
  · rw [← show v.extractLsb' 0 5 = BitVec.ofNat 5 (v.toNat % 32) from lowField_eq v 5]
    exact wr_apuRegister (f := fun u => statusWrite u v) (fun _ => rfl) s
  · rw [hread]
    exact getLsbD_statusRead u.apu k
  · exact rd_apuRegister (f := fun u => u.dmc.get k) (fun _ => by fin_cases k <;> rfl) s

end Sys2Proof.Proofs
end

section
/-! The audio producer's sample step (spec/49_apu.md R603 to R613, R640 to R664): tables, frame sequencer, channels,
mixer, filter, pull. -/

namespace Sys2Proof.Proofs

open Sys2Proof Sys2Proof.Machine Sys2Proof.Safety Sys2Proof.Claims Sys2Proof.Laws

/-- Settles O57: the tables read off. -/
theorem soundTables : Obligations.SoundTables := ⟨rfl, rfl, rfl, rfl⟩

/-- A counter above 0, one lower. -/
theorem sub_one_eq {w : Nat} {x : BitVec w} (h : 0 < x.toNat) : x - 1 = BitVec.ofNat w (x.toNat - 1) := by
  rw [sub_eq_iff_eq_add]
  calc x = BitVec.ofNat w (x.toNat - 1 + 1) := by rw [Nat.sub_add_cancel h, BitVec.ofNat_toNat, BitVec.setWidth_eq]
    _ = BitVec.ofNat w (x.toNat - 1) + 1 := BitVec.ofNat_add _ _

theorem eq_zero_iff {w : Nat} (x : BitVec w) : x = 0 ↔ ¬ 0 < x.toNat := by
  rw [← BitVec.toNat_inj, Nat.pos_iff_ne_zero, not_not]
  rfl

/-- The envelope's tick, in arithmetic (R604). -/
theorem envelopeStep_eq (vol : BitVec 4) (loop : Bool) (env : BitVec 4) (div : Nat) :
    envelopeStep vol loop env div = envelopeAfter vol loop env div := by
  rw [envelopeStep, envelopeAfter]
  by_cases henv : 0 < env.toNat
  · have hne : env ≠ 0 := fun h => (eq_zero_iff env).mp h henv
    rw [if_pos henv, if_pos hne, sub_one_eq henv]
  · have hzero : env = 0 := (eq_zero_iff env).mpr henv
    rw [if_neg henv, if_neg (not_not.mpr hzero), hzero]

/-- A length counter's tick, in arithmetic (R605). -/
theorem lengthStep_eq (halted : Bool) (l : BitVec 8) :
    lengthStep halted l = BitVec.ofNat 8 (lengthAfter halted l.toNat) := by
  have hself : l = BitVec.ofNat 8 l.toNat := by rw [BitVec.ofNat_toNat, BitVec.setWidth_eq]
  cases halted with
  | true => exact hself
  | false =>
    by_cases hpos : 0 < l.toNat
    · have hne : ¬ (false || l == 0) = true := by simpa using fun h => (eq_zero_iff l).mp h hpos
      rw [lengthStep, if_neg hne, lengthAfter, if_pos ⟨rfl, hpos⟩, sub_one_eq hpos]
    · have hzero : (false || l == 0) = true := by simpa using (eq_zero_iff l).mpr hpos
      rw [lengthStep, if_pos hzero, lengthAfter, if_neg fun h => hpos h.2]
      exact hself

/-- The linear counter's tick, in arithmetic (R604). -/
theorem linearStep_eq (l : BitVec 7) : (if l = 0 then 0 else l - 1) = BitVec.ofNat 7 (l.toNat - 1) := by
  by_cases hpos : 0 < l.toNat
  · rw [if_neg fun h => (eq_zero_iff l).mp h hpos, sub_one_eq hpos]
  · rw [if_pos ((eq_zero_iff l).mpr hpos), Nat.eq_zero_of_not_pos hpos]
    rfl

/-- The reload flag survives only under the control flag (R605). -/
theorem reloadStep_eq (reload control : Bool) :
    (if reload && !control then false else reload) = (reload && control) := by
  cases reload <;> cases control <;> rfl

/-- Settles O37: the two ticks, counter by counter. -/
theorem sequencerTicks : Obligations.SequencerTicks := by
  intro u
  refine ⟨?_, ?_, rfl⟩
  · simp only [tick240, pulseTick240, noiseTick240, triTick240, envelopeStep_eq, linearStep_eq]
  · simp only [tick120, triTick120, lengthStep_eq, reloadStep_eq]

/-- The whole part of a number between `n` and `n + 1`. -/
theorem floor_toNat_eq {x : Rat} {n : Nat} (hlow : (n : Rat) ≤ x) (hhigh : x < n + 1) : x.floor.toNat = n := by
  have hfloor : x.floor = (n : Int) :=
    (Int.floor_eq_iff (a := x)).mpr ⟨by exact_mod_cast hlow, by exact_mod_cast hhigh⟩
  rw [hfloor, Int.toNat_natCast]

/-- Settles O38: the whole units are the passes, and the two dividers count by two. -/
theorem frameSequencerCascade : Obligations.FrameSequencerCascade := by
  refine ⟨fun rate u n _ hlow hhigh => ?_, fun u h120 h60 => ?_⟩
  · simp only [fsAdvance, floor_toNat_eq hlow hhigh]
  · obtain ⟨p1, p2, tri, noi, dmc, enable, ⟨acc, n120, n60⟩, filt⟩ := u
    obtain rfl : n120 = false := h120
    obtain rfl : n60 = false := h60
    exact ⟨rfl, rfl⟩

theorem ratMod_one (x : Rat) : ratMod x 1 = x - x.floor := by
  rw [ratMod, div_one, one_mul]

theorem pulseSilent_iff (en : Bool) (ch : Pulse) :
    pulseSilent en ch = true ↔ en = false ∨ ch.timer.toNat < 8 ∨ ch.length = 0 := by
  simp [pulseSilent, or_assoc]

theorem triGate_iff (en : Bool) (ch : Triangle) :
    triGate en ch = true ↔ en = true ∧ ch.length ≠ 0 ∧ ch.linear ≠ 0 := by
  simp [triGate, and_assoc]

/-- A silent pulse (R613, R642). -/
theorem pulseSample_of_silent {ch : Pulse} {en : Bool} (h : pulseSilent en ch = true) (rate : Rat) :
    pulseSample ch en rate = (0, ch) := by
  rw [pulseSample, if_pos h]

/-- A sounding pulse (R642). -/
theorem pulseSample_of_sounding {ch : Pulse} {en : Bool} (h : ¬ pulseSilent en ch = true) (rate : Rat) :
    pulseSample ch en rate =
      (((dutyTable.getD ch.duty.toNat []).getD (8 * ch.phase).floor.toNat 0) * volume ch.constVol ch.vol ch.env,
        { ch with phase := ratMod (ch.phase + pulseFreq ch.timer / rate) 1 }) := by
  rw [pulseSample, if_neg h]

/-- Settles O39: the pulse's gate and the triangle's, open and closed. -/
theorem channelSamples : Obligations.ChannelSamples := by
  refine ⟨fun ch en rate => ⟨fun h => pulseSample_of_silent ((pulseSilent_iff en ch).mpr h) rate, ?_⟩,
    fun ch en rate => ⟨rfl, fun h => ?_, fun hen hlength hlinear => ?_⟩⟩
  · intro hen htimer hlength
    have hsounds : ¬ pulseSilent en ch = true := by
      rw [pulseSilent_iff, hen]
      simp only [hlength, Nat.not_lt.mpr htimer, reduceCtorEq, or_self, not_false_eq_true]
    rw [pulseSample_of_sounding hsounds, ratMod_one]
    rfl
  · have hclosed : ¬ triGate en ch = true := by
      rw [triGate_iff, not_and_or, not_and_or, not_not, not_not, Bool.not_eq_true]
      exact h
    rw [triSample, if_neg hclosed]
  · rw [triSample, if_pos ((triGate_iff en ch).mpr ⟨hen, hlength, hlinear⟩)]
    rfl

/-- The bit a shift of the noise register brings in (R646). -/
def feedback (mode : Bool) (l : BitVec 15) : Bool := l.getLsbD 0 ^^ l.getLsbD (if mode then 6 else 1)

theorem lfsrStep_eq_or (mode : Bool) (l : BitVec 15) :
    lfsrStep mode l = l >>> 1 ||| if feedback mode l then BitVec.twoPow 15 14 else 0 := by
  cases mode <;> rfl

/-- One shift of the noise register, bit by bit (R646). -/
theorem getLsbD_lfsrStep (mode : Bool) (l : BitVec 15) (i : Nat) :
    (lfsrStep mode l).getLsbD i = if i = 14 then feedback mode l else l.getLsbD (i + 1) := by
  rw [lfsrStep_eq_or, BitVec.getLsbD_or, BitVec.getLsbD_ushiftRight, Nat.add_comm 1 i]
  by_cases hi : i = 14
  · have htop : l.getLsbD (i + 1) = false := BitVec.getLsbD_of_ge l (i + 1) (by omega)
    rw [if_pos hi, htop, hi]
    cases feedback mode l <;> rfl
  · have hother : (if feedback mode l then BitVec.twoPow 15 14 else 0).getLsbD i = false := by
      split
      · simp [Ne.symm hi]
      · simp
    rw [if_neg hi, hother, Bool.or_false]

/-- Settles O40: each shift keeps the register away from 0. -/
theorem noiseRegisterNeverZero : Obligations.NoiseRegisterNeverZero := fun mode l =>
  ⟨fun n hl => times_keeps (P := fun l => l ≠ 0) (fun _ h => lfsrStep_ne_zero mode h) n hl, getLsbD_lfsrStep mode l⟩

/-- One shift of the noise register, by division: what is moved right leaves bit 14 free (R646). -/
theorem lfsrStep_eq (mode : Bool) (l : BitVec 15) : lfsrStep mode l = noiseShift mode l := by
  have hl := l.isLt
  have hweight : noiseShift mode l = BitVec.ofNat 15 (l.toNat / 2 + if feedback mode l then 16384 else 0) := by
    rw [noiseShift, feedback]
    cases l.getLsbD 0 <;> cases l.getLsbD (if mode then 6 else 1) <;> rfl
  apply BitVec.eq_of_toNat_eq
  rw [hweight, lfsrStep_eq_or, BitVec.toNat_or, BitVec.toNat_ushiftRight, Nat.shiftRight_one, BitVec.toNat_ofNat]
  cases feedback mode l with
  | false =>
    change l.toNat / 2 ||| 0 = (l.toNat / 2 + 0) % 2 ^ 15
    rw [Nat.or_zero]
    omega
  | true =>
    change l.toNat / 2 ||| 2 ^ 14 * 1 = (l.toNat / 2 + 16384) % 2 ^ 15
    rw [Nat.or_comm, ← Nat.two_pow_add_eq_or_of_lt (by omega)]
    omega

/-- Settles O58: the sample, and one shift for each whole unit of the phase. -/
theorem noiseSample : Obligations.NoiseSample := by
  intro ch en rate n moved hlow hhigh
  have hmoved : ch.phase + noiseRate ch.periodIndex / rate = moved := rfl
  have hshift : lfsrStep ch.mode = noiseShift ch.mode := funext (lfsrStep_eq ch.mode)
  have haudible : (en && ch.length != 0 && !ch.lfsr.getLsbD 0) = true ↔
      en = true ∧ 0 < ch.length.toNat ∧ ch.lfsr.getLsbD 0 = false := by
    simp only [Bool.and_eq_true, bne_iff_ne, ne_eq, eq_zero_iff, not_not, Bool.not_eq_true', and_assoc]
  simp only [Machine.noiseSample, hmoved, floor_toNat_eq hlow hhigh, hshift, haudible]
  rfl

/-- The mixer with a delta-modulation level of 0 (R660, R663). -/
theorem apuMix_eq_mixed (s1 s2 t n : Nat) : apuMix s1 s2 t n dmcMixLevel = mixed s1 s2 t n := by
  have hpulse : s1 + s2 = 0 ↔ s1 = 0 ∧ s2 = 0 := Nat.add_eq_zero_iff
  simp only [apuMix, pulseMix, tndMix, mixed, dmcMixLevel, hpulse, Nat.cast_add, Nat.cast_zero, zero_div, add_zero,
    and_true]

/-- The filter in its zero state with zero input, and otherwise (R661). -/
theorem apuFilter_eq_filtered (f : FilterState) (m rate : Rat) : apuFilter f m rate = filtered f m rate := by
  have hstate : f = { s1 := 0, s2 := 0 } ↔ f.s1 = 0 ∧ f.s2 = 0 := by
    cases f
    simp only [FilterState.mk.injEq]
  simp only [apuFilter, filtered, hstate, and_assoc]
  split
  · next h => rw [← hstate.mpr ⟨h.1, h.2.1⟩]
  · rfl

/-- What a list's entries are bounded by, a look-up with default 0 is. -/
theorem getD_le {l : List Nat} {b : Nat} (h : ∀ x ∈ l, x ≤ b) (i : Nat) : l.getD i 0 ≤ b := by
  rw [List.getD_eq_getElem?_getD]
  cases hi : l[i]? with
  | none => exact Nat.zero_le b
  | some x => exact h x (List.mem_of_getElem? hi)

theorem volume_le (constVol : Bool) (vol env : BitVec 4) : volume constVol vol env ≤ 15 := by
  rw [volume]
  split
  · exact nibble_le vol
  · exact nibble_le env

/-- A duty waveform is made of zeros and ones (R608). -/
theorem dutyStep_le (duty : BitVec 2) (i : Nat) : (dutyTable.getD duty.toNat []).getD i 0 ≤ 1 := by
  have hrows : ∀ d : BitVec 2, ∀ x ∈ dutyTable.getD d.toNat [], x ≤ 1 := by decide
  exact getD_le (hrows duty) i

theorem pulseSample_le (ch : Pulse) (en : Bool) (rate : Rat) : (pulseSample ch en rate).1 ≤ 15 := by
  by_cases h : pulseSilent en ch = true
  · rw [pulseSample_of_silent h]
    exact Nat.zero_le 15
  · rw [pulseSample_of_sounding h]
    exact Nat.mul_le_mul (dutyStep_le ch.duty _) (volume_le ch.constVol ch.vol ch.env)

theorem triSample_le (ch : Triangle) (en : Bool) (rate : Rat) : (triSample ch en rate).1 ≤ 15 :=
  getD_le (by decide) _

theorem noiseSample_le (ch : Noise) (en : Bool) (rate : Rat) : (Machine.noiseSample ch en rate).1 ≤ 15 := by
  change (if _ then volume ch.constVol ch.vol ch.env else 0) ≤ 15
  split
  · exact volume_le ch.constVol ch.vol ch.env
  · exact Nat.zero_le 15

/-- A pull of `count` sample steps, written without recursion (R641, R664). -/
theorem pullSamples_eq (vol : UserVolume) (rate : Rat) (channels count : Nat) (u : Apu) :
    pullSamples vol rate channels count u =
      ((List.range count).flatMap fun k =>
          List.replicate channels (sampleStep vol rate (times (fun v => (sampleStep vol rate v).2) k u)).1,
        times (fun v => (sampleStep vol rate v).2) count u) := by
  induction count generalizing u with
  | zero => rfl
  | succ count ih =>
    rw [pullSamples, ih, List.range_succ_eq_map, List.flatMap_cons, List.flatMap_map]
    rfl

/-- Settles O59: the step from its parts, the bounds from the tables and the volume, the pull by its number of
steps. -/
theorem sampleStepAndPull : Obligations.SampleStepAndPull := by
  intro vol rate u w s1 s2 t n y
  refine ⟨?_, vol.property.1, vol.property.2, pulseSample_le _ _ _, pulseSample_le _ _ _, triSample_le _ _ _,
    noiseSample_le _ _ _, fun count channels s => ⟨fun hrate hchannels => ?_, fun h => ?_⟩⟩
  · simp only [sampleStep, apuFilter_eq_filtered, apuMix_eq_mixed]
    rfl
  · rw [progress, if_pos ⟨hrate, hchannels⟩, pullSamples_eq]
  · rw [progress, if_neg h]

end Sys2Proof.Proofs
end

section
/-! Exceptions and the CPU tick's priorities (spec/60_exceptions.md R700 to R710). -/

namespace Sys2Proof.Proofs

open Sys2Proof Sys2Proof.Machine Sys2Proof.Safety Sys2Proof.Claims Sys2Proof.Laws

/-- Settles O7: the branches of the tick, the two entries being handler entries with their 7 ticks. -/
theorem cpuTickOrder : Obligations.CpuTickOrder := by
  intro s
  have hentry (vector : Word) (u : State) : interruptEntry vector u = enterHandler u.cpu.pc false vector u := rfl
  refine ⟨fun hhalt => if_pos hhalt, fun hhalt hpending => ?_, fun hhalt hpending hnmi => ?_,
    fun hhalt hpending hnmi hirq hi => ?_, cpuTick_eq_executeOne⟩
  · rw [cpuTick, if_neg (by omega), if_pos hpending]
    rfl
  · rw [cpuTick, if_neg (by omega), if_neg (by omega), if_pos hnmi, hentry, interruptTicks,
      retire_enterHandler _ _ (by decide) (by decide)]
    rfl
  · have htaken : (s.cpu.irqPending && !s.cpu.p.i) = true := by rw [hirq, hi]; rfl
    rw [cpuTick, if_neg (by omega), if_neg (by omega), if_neg (by rw [hnmi]; decide), if_pos htaken, hentry,
      interruptTicks, retire_enterHandler _ _ (by decide) (by decide)]
    rfl

/-- The IRQ line is `b`. -/
def IrqLineIs (b : Bool) (s : State) : Prop := s.cpu.irqPending = b

theorem irqLineIs_kept (b : Bool) : KeptByAccesses (IrqLineIs b) where
  dot h := h
  cpu h ht := by rw [ht]; exact h
  read a s h := by rwa [IrqLineIs, rd_cpu]
  write a v s h := by rwa [IrqLineIs, wr_cpu_halt]

/-- Settles O8: no access writes the line. -/
theorem irqLineNeverChanges : Obligations.IrqLineNeverChanges :=
  ⟨rfl, fun s _ h => (irqLineIs_kept s.cpu.irqPending).of_step h rfl⟩

theorem branchInstr_answers (i : Instr) (cond : Bool) (b : Byte) (s : State) :
    ∃ t, branchInstr i cond b s = .next t := by
  cases cond with
  | true => exact ⟨_, rfl⟩
  | false => exact ⟨_, rfl⟩

/-- Every instruction has a meaning, and none faults (R700). -/
theorem exec_answers (i : Instr) (s : State) : ∃ t, exec i s = .next t := by
  cases i with
  | bcc | bcs | beq | bne | bmi | bpl | bvc | bvs => exact branchInstr_answers _ _ _ s
  | _ => exact ⟨_, rfl⟩

/-- A documented opcode byte is executed, whatever bytes follow it (R170, R401). -/
theorem executeOne_answers {s : State} (h : (rd s.cpu.pc s).1 ∉ undocumentedOpcodes) :
    ∃ t, executeOne s = .next t := by
  obtain ⟨shape, hop⟩ := Option.ne_none_iff_exists'.mp fun hnone => h (opcodeShape_eq_none_iff.mp hnone)
  simp only [executeOne, fetchInstr, hop]
  cases shape with
  | alone i => exact exec_answers i _
  | withByte mk => exact exec_answers (mk _) _
  | withWord mk => exact exec_answers (mk _) _

/-- A CPU tick answers a next state, unless it runs an instruction with an undocumented opcode byte (R176, R707). -/
theorem cpuTick_answers {s : State}
    (h : s.cpu.halt = 0 → s.cpu.pending = 0 → s.cpu.nmiPending = false →
      (s.cpu.irqPending = true → s.cpu.p.i = true) → (rd s.cpu.pc s).1 ∉ undocumentedOpcodes) :
    ∃ t, cpuTick s = .next t := by
  obtain ⟨hdma, howed, hnmiTaken, hirqTaken, hruns⟩ := cpuTickOrder s
  rcases Nat.eq_zero_or_pos s.cpu.halt with hhalt | hhalt
  · rcases Nat.eq_zero_or_pos s.cpu.pending with hpending | hpending
    · cases hnmi : s.cpu.nmiPending with
      | true => exact ⟨_, hnmiTaken hhalt hpending hnmi⟩
      | false =>
        by_cases hirq : s.cpu.irqPending = true → s.cpu.p.i = true
        · rw [hruns hhalt hpending hnmi hirq]
          exact executeOne_answers (h hhalt hpending hnmi hirq)
        · obtain ⟨hline, hi⟩ := Classical.not_imp.mp hirq
          exact ⟨_, hirqTaken hhalt hpending hnmi hline (eq_false_of_ne_true hi)⟩
    · exact ⟨_, howed hhalt hpending⟩
  · exact ⟨_, hdma hhalt⟩

/-- An NMI request that is clear after the prelude was clear before it, and the PPU made none (R546). -/
theorem noNmi_of_dotPrelude {s : State} (h : (dotPrelude s).cpu.nmiPending = false) :
    s.cpu.nmiPending = false ∧ ¬ (s.ppu.scanline = 241 ∧ s.ppu.dot = 1 ∧ s.ppu.ctrl.getLsbD 7 = true) := by
  change (s.cpu.nmiPending || nmiDue s.ppu) = false at h
  obtain ⟨hold, hnew⟩ := Bool.or_eq_false_iff.mp h
  exact ⟨hold, by simpa [nmiDue, vblankDue] using hnew⟩

/-- Settles O9: a step is its prelude or a CPU tick, and a tick stops only where an instruction is due. -/
theorem onlyUndocumentedOpcodesStop : Obligations.OnlyUndocumentedOpcodesStop := by
  intro s u op
  refine ⟨fun hdue hop => (step_eq_executeOne hdue).trans (executeOne_refused (opcodeShape_eq_none_iff.mpr hop)),
    fun h => ?_⟩
  by_cases hdiv : s.cpuDiv = 2
  · rw [step_of_cpuDiv_eq hdiv]
    refine cpuTick_answers fun hhalt hpending hnmi hirq hop => h ⟨?_, hop⟩
    obtain ⟨hold, hnow⟩ := noNmi_of_dotPrelude hnmi
    exact ⟨hdiv, hhalt, hpending, hold, hnow, hirq⟩
  · exact ⟨dotPrelude s, if_neg (by simp only [cpuTickDue, beq_iff_eq]; omega)⟩

end Sys2Proof.Proofs
end

section
/-! Machine reset and save states (spec/70_reset_and_hazards.md R750, R764, R765). -/

namespace Sys2Proof.Proofs

open Sys2Proof Sys2Proof.Machine Sys2Proof.Safety Sys2Proof.Claims Sys2Proof.Laws

/-- After a reset the upper window shows the last bank (R502). -/
theorem prgIndex_reset {banks : Nat} (hbanks : 1 ≤ banks) {a : Word} (ha : 0xC000 ≤ a.toNat) :
    prgIndex banks (Mapper.reset banks) a = banks * 16384 - (0x10000 - a.toNat) := by
  have hwindows : separateWindows (Mapper.reset banks) = true :=
    (by decide : (0x0C : BitVec 5).getLsbD 3 = true)
  have hlast : (banks - 1) % banks = banks - 1 := Nat.mod_eq_of_lt (by omega)
  have hlt := a.isLt
  rw [prgIndex, if_pos hwindows, if_neg (by omega)]
  change (banks - 1) % banks * 16384 + _ = _
  rw [hlast]
  omega

/-- Settles O11: the reset vector stands at the end of the last bank. -/
theorem machineResetEffect : Obligations.MachineResetEffect := by
  intro s hbanks
  rw [machineReset_eq, prgIndex_reset hbanks (by decide), prgIndex_reset hbanks (by decide)]
  rfl

/-- Settles O14: a restore takes program storage and the count of free values from the running machine, all else from
the snapshot. -/
theorem snapshotRestoresTheMachine : Obligations.SnapshotRestoresTheMachine := by
  intro v least m running
  refine ⟨fun hversion hprg hbanks => ?_, fun hversion => if_pos hversion⟩
  have hrestore : restore least running (snapshot v m) = _ := if_neg (Nat.not_lt.mpr hversion)
  rw [hrestore, hprg, hbanks]
  rfl

end Sys2Proof.Proofs
end
